-- ==== Sys2Proof/Word.lean ====
section
/-!
DEFINITION. The word types of the machine (spec 00_scope.md R6, R7): every quantity is unsigned.
-/

namespace Sys2Proof

/-- A memory byte, and the width of a general register and of a timer (R6). -/
abbrev Byte := BitVec 8

/-- An instruction word, and the width of pc, of I and of a stack entry (R6). -/
abbrev Word := BitVec 16

/-- A register index 0x0 to 0xF, what an `x` or `y` field holds (R9). -/
abbrev Reg := Fin 16

end Sys2Proof
end

