-- ==== Sys2Proof/Syntax.lean ====
section
/-!
DEFINITION. The instruction set as syntax: one constructor per row of spec/opcode_table.json, in the table's order.
A field `u` holds bits that the dispatcher does not examine (spec 30_encoding.md R79). They change nothing an instruction
does; they are kept so that a fault can record the word that was fetched (log entry 6).
-/

namespace Sys2Proof

/-- The 35 instructions (30_encoding.md R74). -/
inductive Instr where
  /-- `CLS`, 0--0 (R160); `u` is bits 11:4. -/
  | cls (u : BitVec 8)
  /-- `RET`, 0--E (R101); `u` is bits 11:4. -/
  | ret (u : BitVec 8)
  /-- `SYS nnn`, 0nnn with low nibble neither 0 nor E (R100). -/
  | sys (nnn : BitVec 12)
  /-- `JP nnn`, 1nnn (R102). -/
  | jp (nnn : BitVec 12)
  /-- `CALL nnn`, 2nnn (R103). -/
  | call (nnn : BitVec 12)
  /-- `SE Vx, nn`, 3xnn (R104). -/
  | seImm (x : Reg) (nn : Byte)
  /-- `SNE Vx, nn`, 4xnn (R105). -/
  | sneImm (x : Reg) (nn : Byte)
  /-- `SE Vx, Vy`, 5xy- (R106); `u` is bits 3:0. -/
  | seReg (x y : Reg) (u : BitVec 4)
  /-- `LD Vx, nn`, 6xnn (R120). -/
  | ldImm (x : Reg) (nn : Byte)
  /-- `ADD Vx, nn`, 7xnn (R121). -/
  | addImm (x : Reg) (nn : Byte)
  /-- `LD Vx, Vy`, 8xy0 (R122). -/
  | ldReg (x y : Reg)
  /-- `OR Vx, Vy`, 8xy1 (R123). -/
  | orReg (x y : Reg)
  /-- `AND Vx, Vy`, 8xy2 (R124). -/
  | andReg (x y : Reg)
  /-- `XOR Vx, Vy`, 8xy3 (R125). -/
  | xorReg (x y : Reg)
  /-- `ADD Vx, Vy`, 8xy4 (R126). -/
  | addReg (x y : Reg)
  /-- `SUB Vx, Vy`, 8xy5 (R127). -/
  | subReg (x y : Reg)
  /-- `SHR Vx`, 8xy6 (R128); `y` is ignored. -/
  | shr (x y : Reg)
  /-- `SUBN Vx, Vy`, 8xy7 (R129). -/
  | subnReg (x y : Reg)
  /-- `SHL Vx`, 8xyE (R130); `y` is ignored. -/
  | shl (x y : Reg)
  /-- `SNE Vx, Vy`, 9xy- (R107); `u` is bits 3:0. -/
  | sneReg (x y : Reg) (u : BitVec 4)
  /-- `LD I, nnn`, Annn (R140). -/
  | ldI (nnn : BitVec 12)
  /-- `JP V0, nnn`, Bnnn (R108). -/
  | jpV0 (nnn : BitVec 12)
  /-- `RND Vx, nn`, Cxnn (R131). -/
  | rnd (x : Reg) (nn : Byte)
  /-- `DRW Vx, Vy, n`, Dxyn (R161). -/
  | drw (x y : Reg) (n : BitVec 4)
  /-- `SKP Vx`, Ex-E (R170); `u` is bits 7:4. -/
  | skp (x : Reg) (u : BitVec 4)
  /-- `SKNP Vx`, Ex-1 (R171); `u` is bits 7:4. -/
  | sknp (x : Reg) (u : BitVec 4)
  /-- `LD Vx, DT`, Fx07 (R173). -/
  | ldVxDt (x : Reg)
  /-- `LD Vx, K`, Fx0A (R172). -/
  | ldVxK (x : Reg)
  /-- `LD DT, Vx`, Fx15 (R174). -/
  | ldDtVx (x : Reg)
  /-- `LD ST, Vx`, Fx18 (R175). -/
  | ldStVx (x : Reg)
  /-- `ADD I, Vx`, Fx1E (R141). -/
  | addI (x : Reg)
  /-- `LD F, Vx`, Fx29 (R142). -/
  | ldF (x : Reg)
  /-- `LD B, Vx`, Fx33 (R143). -/
  | ldB (x : Reg)
  /-- `LD [I], Vx`, Fx55 (R144). -/
  | storeRegs (x : Reg)
  /-- `LD Vx, [I]`, Fx65 (R145). -/
  | loadRegs (x : Reg)
  deriving DecidableEq, Repr

end Sys2Proof
end

