-- ==== Sys2Proof/WellFormed.lean ====
section
/-!
DEFINITION. Which instructions have an encoding of their own. The field types bound every field, so one check remains:
`SYS nnn` takes the family-0 words that the `CLS` and `RET` rows leave (spec 30_encoding.md R74, R75, R100).
-/

namespace Sys2Proof

/-- `SYS` words whose low nibble is 0 or E do not exist as `SYS` (R100); every other instruction is well formed. -/
def wellFormed : Instr → Bool
  | .cls _ => true
  | .ret _ => true
  | .sys nnn => nnn.extractLsb' 0 4 != 0x0#4 && nnn.extractLsb' 0 4 != 0xE#4
  | .jp _ => true
  | .call _ => true
  | .seImm _ _ => true
  | .sneImm _ _ => true
  | .seReg _ _ _ => true
  | .ldImm _ _ => true
  | .addImm _ _ => true
  | .ldReg _ _ => true
  | .orReg _ _ => true
  | .andReg _ _ => true
  | .xorReg _ _ => true
  | .addReg _ _ => true
  | .subReg _ _ => true
  | .shr _ _ => true
  | .subnReg _ _ => true
  | .shl _ _ => true
  | .sneReg _ _ _ => true
  | .ldI _ => true
  | .jpV0 _ => true
  | .rnd _ _ => true
  | .drw _ _ _ => true
  | .skp _ _ => true
  | .sknp _ _ => true
  | .ldVxDt _ => true
  | .ldVxK _ => true
  | .ldDtVx _ => true
  | .ldStVx _ => true
  | .addI _ => true
  | .ldF _ => true
  | .ldB _ => true
  | .storeRegs _ => true
  | .loadRegs _ => true

end Sys2Proof
end

