-- ==== Sys2Proof/Decode.lean ====
section
/-!
DEFINITION. The decoder (spec 30_encoding.md R70, R71, R74 to R80, R84), total on every word and every list of bytes, and
after it the encoder, written from the same table.
-/

namespace Sys2Proof

/-! ## Fields of an instruction word (00_scope.md R9, 30_encoding.md R71) -/

/-- `op = w[15:12]`. -/
def fieldOp (w : Word) : BitVec 4 := w.extractLsb' 12 4

/-- `x = w[11:8]`. -/
def fieldX (w : Word) : Reg := (w.extractLsb' 8 4).toFin

/-- `y = w[7:4]`. -/
def fieldY (w : Word) : Reg := (w.extractLsb' 4 4).toFin

/-- `n = w[3:0]`. -/
def fieldN (w : Word) : BitVec 4 := w.extractLsb' 0 4

/-- `nn = w[7:0]`. -/
def fieldNN (w : Word) : Byte := w.extractLsb' 0 8

/-- `nnn = w[11:0]`. -/
def fieldNNN (w : Word) : BitVec 12 := w.extractLsb' 0 12

/-- Bits 11:4, which the dispatcher does not examine in family 0x0 (R79). -/
def fieldU8 (w : Word) : BitVec 8 := w.extractLsb' 4 8

/-- Bits 7:4, which the dispatcher does not examine in family 0xE (R79). -/
def fieldU4 (w : Word) : BitVec 4 := w.extractLsb' 4 4

/-! ## The decoder -/

/-- Why a word or a list of bytes is no instruction. The first three are the spec's `Unknown` (R80): a Step that
fetches such a word raises UnknownOpcode. Family 0x0 is not among them: its words without a handler are the
row `SYS nnn`, whose own meaning raises UnknownOpcode (R75, R100). -/
inductive DecodeError where
  /-- Fewer than two bytes were given; a fetch never gives fewer. -/
  | truncated
  /-- Family 0x8 with a low nibble that has no handler (R76). -/
  | unknownFamily8 (w : Word)
  /-- Family 0xE with a low nibble that has no handler (R77). -/
  | unknownFamilyE (w : Word)
  /-- Family 0xF with a low byte that has no handler (R78). -/
  | unknownFamilyF (w : Word)
  deriving DecidableEq, Repr

/-- Family 0x0, secondary dispatch on the low nibble (R75). -/
def decodeFamily0 (w : Word) : Instr :=
  match fieldN w with
  | 0x0#4 => .cls (fieldU8 w)
  | 0xE#4 => .ret (fieldU8 w)
  | _ => .sys (fieldNNN w)

/-- Family 0x8, secondary dispatch on the low nibble (R76). -/
def decodeFamily8 (w : Word) : Except DecodeError Instr :=
  match fieldN w with
  | 0x0#4 => .ok (.ldReg (fieldX w) (fieldY w))
  | 0x1#4 => .ok (.orReg (fieldX w) (fieldY w))
  | 0x2#4 => .ok (.andReg (fieldX w) (fieldY w))
  | 0x3#4 => .ok (.xorReg (fieldX w) (fieldY w))
  | 0x4#4 => .ok (.addReg (fieldX w) (fieldY w))
  | 0x5#4 => .ok (.subReg (fieldX w) (fieldY w))
  | 0x6#4 => .ok (.shr (fieldX w) (fieldY w))
  | 0x7#4 => .ok (.subnReg (fieldX w) (fieldY w))
  | 0xE#4 => .ok (.shl (fieldX w) (fieldY w))
  | _ => .error (.unknownFamily8 w)

/-- Family 0xE, secondary dispatch on the low nibble (R77). -/
def decodeFamilyE (w : Word) : Except DecodeError Instr :=
  match fieldN w with
  | 0xE#4 => .ok (.skp (fieldX w) (fieldU4 w))
  | 0x1#4 => .ok (.sknp (fieldX w) (fieldU4 w))
  | _ => .error (.unknownFamilyE w)

/-- Family 0xF, secondary dispatch on the low byte (R78). -/
def decodeFamilyF (w : Word) : Except DecodeError Instr :=
  match fieldNN w with
  | 0x07#8 => .ok (.ldVxDt (fieldX w))
  | 0x0A#8 => .ok (.ldVxK (fieldX w))
  | 0x15#8 => .ok (.ldDtVx (fieldX w))
  | 0x18#8 => .ok (.ldStVx (fieldX w))
  | 0x1E#8 => .ok (.addI (fieldX w))
  | 0x29#8 => .ok (.ldF (fieldX w))
  | 0x33#8 => .ok (.ldB (fieldX w))
  | 0x55#8 => .ok (.storeRegs (fieldX w))
  | 0x65#8 => .ok (.loadRegs (fieldX w))
  | _ => .error (.unknownFamilyF w)

/-- `Decode(w)`: primary dispatch on the top nibble (R74, R84). The last arm is family 0xF, the one nibble left. -/
def decodeWord (w : Word) : Except DecodeError Instr :=
  match fieldOp w with
  | 0x0#4 => .ok (decodeFamily0 w)
  | 0x1#4 => .ok (.jp (fieldNNN w))
  | 0x2#4 => .ok (.call (fieldNNN w))
  | 0x3#4 => .ok (.seImm (fieldX w) (fieldNN w))
  | 0x4#4 => .ok (.sneImm (fieldX w) (fieldNN w))
  | 0x5#4 => .ok (.seReg (fieldX w) (fieldY w) (fieldN w))
  | 0x6#4 => .ok (.ldImm (fieldX w) (fieldNN w))
  | 0x7#4 => .ok (.addImm (fieldX w) (fieldNN w))
  | 0x8#4 => decodeFamily8 w
  | 0x9#4 => .ok (.sneReg (fieldX w) (fieldY w) (fieldN w))
  | 0xA#4 => .ok (.ldI (fieldNNN w))
  | 0xB#4 => .ok (.jpV0 (fieldNNN w))
  | 0xC#4 => .ok (.rnd (fieldX w) (fieldNN w))
  | 0xD#4 => .ok (.drw (fieldX w) (fieldY w) (fieldN w))
  | 0xE#4 => decodeFamilyE w
  | _ => decodeFamilyF w

/-- The word of two consecutive bytes: the high byte at the lower address (R52, R70). -/
def wordOfBytes (hi lo : Byte) : Word := hi ++ lo

/-- The decoder on bytes: the instruction of the first two, and the bytes left. -/
def decode : List Byte → Except DecodeError (Instr × List Byte)
  | hi :: lo :: rest => (decodeWord (wordOfBytes hi lo)).map fun i => (i, rest)
  | _ => .error .truncated

/-! ## The encoder (R72, R74) -/

/-- The four bits of a register index. -/
def regBits (x : Reg) : BitVec 4 := BitVec.ofFin x

/-- Format `Z` (R72): op = 0, eight ignored bits, key n. -/
def packZ (u : BitVec 8) (n : BitVec 4) : Word := 0x0#4 ++ u ++ n

/-- Format `NNN` (R72). -/
def packNNN (op : BitVec 4) (nnn : BitVec 12) : Word := op ++ nnn

/-- Format `XNN` (R72), and format `X` of family 0xF, whose key is the low byte. -/
def packXNN (op : BitVec 4) (x : Reg) (nn : Byte) : Word := op ++ regBits x ++ nn

/-- Formats `XYN` and `XY` (R72), the low nibble an immediate, a key or ignored. -/
def packXYN (op : BitVec 4) (x y : Reg) (n : BitVec 4) : Word := op ++ regBits x ++ regBits y ++ n

/-- Format `X` of family 0xE (R72): bits 7:4 ignored, the low nibble a key. -/
def packXUN (op : BitVec 4) (x : Reg) (u n : BitVec 4) : Word := op ++ regBits x ++ u ++ n

/-- The word of an instruction, from the same rows as `decodeWord` (R74). -/
def encode : Instr → Word
  | .cls u => packZ u 0x0#4
  | .ret u => packZ u 0xE#4
  | .sys nnn => packNNN 0x0#4 nnn
  | .jp nnn => packNNN 0x1#4 nnn
  | .call nnn => packNNN 0x2#4 nnn
  | .seImm x nn => packXNN 0x3#4 x nn
  | .sneImm x nn => packXNN 0x4#4 x nn
  | .seReg x y u => packXYN 0x5#4 x y u
  | .ldImm x nn => packXNN 0x6#4 x nn
  | .addImm x nn => packXNN 0x7#4 x nn
  | .ldReg x y => packXYN 0x8#4 x y 0x0#4
  | .orReg x y => packXYN 0x8#4 x y 0x1#4
  | .andReg x y => packXYN 0x8#4 x y 0x2#4
  | .xorReg x y => packXYN 0x8#4 x y 0x3#4
  | .addReg x y => packXYN 0x8#4 x y 0x4#4
  | .subReg x y => packXYN 0x8#4 x y 0x5#4
  | .shr x y => packXYN 0x8#4 x y 0x6#4
  | .subnReg x y => packXYN 0x8#4 x y 0x7#4
  | .shl x y => packXYN 0x8#4 x y 0xE#4
  | .sneReg x y u => packXYN 0x9#4 x y u
  | .ldI nnn => packNNN 0xA#4 nnn
  | .jpV0 nnn => packNNN 0xB#4 nnn
  | .rnd x nn => packXNN 0xC#4 x nn
  | .drw x y n => packXYN 0xD#4 x y n
  | .skp x u => packXUN 0xE#4 x u 0xE#4
  | .sknp x u => packXUN 0xE#4 x u 0x1#4
  | .ldVxDt x => packXNN 0xF#4 x 0x07#8
  | .ldVxK x => packXNN 0xF#4 x 0x0A#8
  | .ldDtVx x => packXNN 0xF#4 x 0x15#8
  | .ldStVx x => packXNN 0xF#4 x 0x18#8
  | .addI x => packXNN 0xF#4 x 0x1E#8
  | .ldF x => packXNN 0xF#4 x 0x29#8
  | .ldB x => packXNN 0xF#4 x 0x33#8
  | .storeRegs x => packXNN 0xF#4 x 0x55#8
  | .loadRegs x => packXNN 0xF#4 x 0x65#8

/-- The two bytes of a word as they lie in memory, high byte first (R70). -/
def bytesOfWord (w : Word) : List Byte := [w.extractLsb' 8 8, w.extractLsb' 0 8]

/-! ## The opcode table's numbering -/

/-- The word whose bits the opcode table numbers, bit 0 least significant; bits from `nbits` up are 0. -/
def tableWord (nbits w : Nat) : Word := BitVec.ofNat 16 (w % 2 ^ nbits)

/-- What the decoder reads from the bytes of that word, laid out as memory holds them. -/
def decodeTableWord (nbits w : Nat) : Option Instr :=
  match decode (bytesOfWord (tableWord nbits w)) with
  | .ok (i, _) => some i
  | .error _ => none

end Sys2Proof
end

