-- ==== Sys2Proof/Config.lean ====
section
/-!
DEFINITION. What is fixed for the machine (spec 00_scope.md R6) and its one free value.
The parameters a test could show wrong (font bytes, power-on bytes, stack depth at reset) stand in Machine/Params.lean.
-/

namespace Sys2Proof.Config

/-- `MEM_SIZE` (R6, R50): addresses 0x000 to 0xFFF. -/
abbrev memSize : Nat := 4096

/-- Columns of the framebuffer (R6, R26). -/
abbrev screenWidth : Nat := 64

/-- Rows of the framebuffer (R6, R26). -/
abbrev screenHeight : Nat := 32

/-- `PROG_BASE` (R6): the default load address and the reset value of pc. -/
abbrev progBase : Nat := 0x200

/-- `RandByte` (R6, R131, D15): the byte that draw number `k` gives. A free value: it has no body, so
nothing can be proved of any draw (log entry 3). -/
opaque randByte : Nat → Byte

end Sys2Proof.Config
end

