-- ==== Sys2Proof/Machine/Params.lean ====
section
/-!
DEFINITION. The parameters of the machine that the spec leaves open or takes from general knowledge: the font bytes, what a
byte that nothing has written reads as, and the stack depth of the state after reset.
-/

namespace Sys2Proof.Machine

/-- `FONT`: the 80 bytes that Reset writes at 0x000, glyph d at 5 d (20_memory.md R60, D23; log entry 4). -/
def fontBytes : List Byte :=
  [0xF0, 0x90, 0x90, 0x90, 0xF0] ++ [0x20, 0x60, 0x20, 0x20, 0x70] ++
  [0xF0, 0x10, 0xF0, 0x80, 0xF0] ++ [0xF0, 0x10, 0xF0, 0x10, 0xF0] ++
  [0x90, 0x90, 0xF0, 0x10, 0x10] ++ [0xF0, 0x80, 0xF0, 0x10, 0xF0] ++
  [0xF0, 0x80, 0xF0, 0x90, 0xF0] ++ [0xF0, 0x10, 0x20, 0x40, 0x40] ++
  [0xF0, 0x90, 0xF0, 0x90, 0xF0] ++ [0xF0, 0x90, 0xF0, 0x10, 0xF0] ++
  [0xF0, 0x90, 0xF0, 0x90, 0x90] ++ [0xE0, 0x90, 0xE0, 0x90, 0xE0] ++
  [0xF0, 0x80, 0x80, 0x80, 0xF0] ++ [0xE0, 0x90, 0x90, 0x90, 0xE0] ++
  [0xF0, 0x80, 0xF0, 0x80, 0xF0] ++ [0xF0, 0x80, 0xF0, 0x80, 0x80]

/-- What `INIT_MEM` is in the state after reset (D16). DESIGN CHOICE, unsafe: the spec leaves these bytes open
(log entry 1). Every other power-on memory is a memory that lists its bytes. -/
def powerOnByte : Byte := 0x00

/-- What an address that memory does not list reads as: the font below 0x050, `powerOnByte` above. -/
def unwritten (a : Nat) : Byte := fontBytes.getD a powerOnByte

/-- `STACK_DEPTH` in the state after reset: `none` is unbounded (D3). DESIGN CHOICE (log entry 2). -/
def stackDepthAtReset : Option Nat := none

end Sys2Proof.Machine
end

