-- ==== Sys2Proof/Machine/State.lean ====
section
/-!
DEFINITION. The state of the machine (spec 10_state.md), the reasons a step can stop (60_exceptions.md R201 to R206), the
host's operations and their results (R218), and the state after reset (R32).
-/

namespace Sys2Proof.Machine

/-- Memory as (address, byte) pairs, addresses rising, no pair equal to what an unlisted address reads as
(`Memory.wf`). It stands for the 4096 bytes of 20_memory.md R50. -/
abbrev Memory := List Host.Cell

/-- The framebuffer `FB[cx][cy]`: 64 columns of 32 rows; `true` is a lit pixel, the spec's 1 (R26). -/
abbrev Screen := Vector (Vector Bool 32) 64

/-- Everything the spec gives the machine (10_state.md R20 to R30), and two fields of the model's own. -/
structure State where
  /-- General registers V0 to VF (R20); VF is the flag register (R21). -/
  v : Vector Byte 16
  /-- Address register I, 16 bits stored, its value at most 0xFFF (R22). -/
  i : Word
  /-- Program counter (R23). -/
  pc : Word
  /-- Call stack; the last element is the top (00_scope.md R8, R24). -/
  stack : List Word
  /-- Delay timer DT (R25). -/
  dt : Byte
  /-- Sound timer ST (R25). -/
  st : Byte
  /-- Framebuffer FB (R26). -/
  fb : Screen
  /-- Dirty flag (R27). -/
  dirty : Bool
  /-- Key vector (R28). -/
  keys : Vector Bool 16
  /-- Beep flag (R29). -/
  beep : Bool
  /-- Memory (R30, R50). -/
  mem : Memory
  /-- The open parameter `STACK_DEPTH`, `none` for unbounded (R6, D3). The model's own field: no operation changes it
  (log entry 2). -/
  stackDepth : Option Nat
  /-- How many random bytes have been drawn. The model's own field: it numbers the free values that RND takes
  (R131; log entry 3). -/
  draws : Nat
  deriving DecidableEq, Repr

/-- The faults of a Step (60_exceptions.md R201 to R205). A fault is the outcome of a Step that changed nothing (R208).
Each is the spec's own outcome. -/
inductive Fault where
  /-- R201. Raised by a Step whose word has no handler, every `SYS nnn` among them. Safe: the spec's own outcome. -/
  | unknownOpcode (w pc : Word)
  /-- R202. Raised by `RET` on an empty stack. Safe: a reported stop where another machine might go on (D4). -/
  | stackUnderflow (pc : Word)
  /-- R203. Raised by the fetch (no word recorded), `DRW`, `LD B, Vx`, `LD [I], Vx`, `LD Vx, [I]` for an address above
  0xFFF. Safe: a reported stop where another machine might wrap (D1). -/
  | outOfBoundsAddress (a pc : Word) (w : Option Word)
  /-- R204. Raised by `CALL` when the stack holds `stackDepth` entries. Safe (D3). -/
  | stackOverflow (pc : Word)
  /-- R205. Raised by `SKP` and `SKNP` when the key index is above 15. Safe (D11). -/
  | keyIndexOutOfRange (k : Byte) (pc w : Word)
  deriving DecidableEq, Repr

/-- Why the model has no meaning for an instruction. -/
inductive Refusal where
  /-- Reserved for an instruction without a meaning. Safe. No instruction of this model raises it. -/
  | notModelled (mnemonic : String)
  deriving DecidableEq, Repr

/-- What an operation of the host returns (60_exceptions.md R218). -/
inductive OpResult where
  /-- The operation succeeded. -/
  | ok
  /-- A Step of the operation faulted; the first fault of a Tick (R217). -/
  | fault (f : Fault)
  /-- A Step had no meaning; never the case in this model. -/
  | refused (r : Refusal)
  /-- A Load failed (R206, R242). -/
  | loadError
  deriving DecidableEq, Repr

/-- The operations of the host that can change the state (60_exceptions.md R218). -/
inductive HostOp where
  /-- Reset (R241). -/
  | reset
  /-- Load bytes at a base address (R242). -/
  | load (bytes : List Byte) (base : Nat)
  /-- SetKeys, the whole vector (R219). -/
  | setKeys (ks : Vector Bool 16)
  /-- SetKeys, one key (R218). -/
  | setKey (k : Fin 16) (pressed : Bool)
  /-- Step (R200). -/
  | step
  /-- Tick with its argument `cyclesPerTick` (R214). -/
  | tick (c : Nat)
  deriving DecidableEq, Repr

/-- The elements the host can read between operations (60_exceptions.md R218, 10_state.md R34, D27). -/
inductive ReadSel where
  | framebuffer
  | dirty
  | beep
  | reg (x : Reg)
  | pc
  | addressReg
  | delayTimer
  | soundTimer
  | key (k : Fin 16)
  | memory (a : Fin Config.memSize)
  | stack
  deriving DecidableEq, Repr

/-- What a Read gives. -/
inductive ReadVal where
  | cells (c : List Bool)
  | flag (b : Bool)
  | byte (b : Byte)
  | word (w : Word)
  | words (ws : List Word)
  deriving DecidableEq, Repr

/-- The state after the first Reset (10_state.md R32): all zero, pc at 0x200, memory with nothing listed. -/
def State.reset : State where
  v := Vector.replicate 16 0
  i := 0
  pc := BitVec.ofNat 16 Config.progBase
  stack := []
  dt := 0
  st := 0
  fb := Vector.replicate 64 (Vector.replicate 32 false)
  dirty := false
  keys := Vector.replicate 16 false
  beep := false
  mem := []
  stackDepth := stackDepthAtReset
  draws := 0

end Sys2Proof.Machine
end

