-- ==== Sys2Proof/Machine/Ops.lean ====
section
/-!
DEFINITION. The named operations over memory, registers, stack, keys and framebuffer, and raising a fault. Every read and
write of the state that an instruction makes goes through one of them.
-/

namespace Sys2Proof.Machine

/-- What a Step answers. -/
abbrev Result := Host.Outcome State Fault Refusal

/-! ## Faults -/

/-- `raise` (00_scope.md R10): the Step ends with the fault and the state stays as it was (60_exceptions.md R208). The
machine has no trap entry, nothing is saved and nothing vectored (R209), and so there is no return from one (R210). -/
def raise (f : Fault) : Result := .fault f

/-! ## Memory (20_memory.md R50, R54) -/

/-- `MemRead(a, 1)`: the listed byte, or what an unlisted address reads as. -/
def Memory.read : Memory → Nat → Byte
  | [], a => unwritten a
  | (b, v) :: m, a => if a = b then v else Memory.read m a

/-- Lists the byte `v` at `a`, in its place in the rising order. -/
def Memory.insert : Memory → Nat → Byte → Memory
  | [], a, v => [(a, v)]
  | (b, w) :: m, a, v =>
    if a < b then (a, v) :: (b, w) :: m
    else if a = b then (a, v) :: m
    else (b, w) :: Memory.insert m a v

/-- Takes the address `a` out of the list. -/
def Memory.erase (m : Memory) (a : Nat) : Memory := m.filter fun c => c.1 ≠ a

/-- `MemWrite(a, 1, v)`, keeping the canonical form: a byte equal to what an unlisted address reads as is not listed.
The callers check that `a` is at most 0xFFF (R55). -/
def Memory.write (m : Memory) (a : Nat) (v : Byte) : Memory :=
  if v = unwritten a then m.erase a else m.insert a v

/-- Byte writes at consecutive addresses from `a` up. -/
def Memory.writeBytes : Memory → Nat → List Byte → Memory
  | m, _, [] => m
  | m, a, b :: bs => Memory.writeBytes (m.write a b) (a + 1) bs

/-- The canonical form: addresses rising and below 4096, no byte listed that an unlisted address would read as. -/
def Memory.wf : Memory → Bool
  | [] => true
  | (a, v) :: m =>
    decide (a < Config.memSize) && decide (v ≠ unwritten a) && m.all (fun c => decide (a < c.1)) && Memory.wf m

/-! ## Registers (10_state.md R20 to R23) -/

/-- Reads `V[x]`. -/
def getV (s : State) (x : Reg) : Byte := s.v[x]

/-- `V[x] <- b`. -/
def setV (s : State) (x : Reg) (b : Byte) : State := { s with v := s.v.set x b }

/-- The flag register VF is `V[15]` (R21). -/
def vf : Reg := 15

/-- `I <- a`. -/
def setI (s : State) (a : Word) : State := { s with i := a }

/-- `pc <- a`. -/
def goTo (s : State) (a : Word) : State := { s with pc := a }

/-- The default advance, `pc <- pc + 2` (40_control.md R109). -/
def advance (s : State) : State := goTo s (s.pc + 2)

/-- The skips: `pc <- pc + 4` if the condition holds, else `pc <- pc + 2` (R109). -/
def skipIf (s : State) (c : Bool) : State := goTo s (if c then s.pc + 4 else s.pc + 2)

/-- `DT <- b` (R25). -/
def setDT (s : State) (b : Byte) : State := { s with dt := b }

/-- `ST <- b` (R25). -/
def setST (s : State) (b : Byte) : State := { s with st := b }

/-- Replaces the contents of memory. -/
def setMem (s : State) (m : Memory) : State := { s with mem := m }

/-! ## The call stack (10_state.md R24) -/

/-- `len(stack) >= STACK_DEPTH`; never, when the depth is unbounded (40_control.md R103). -/
def stackFull (s : State) : Bool :=
  match s.stackDepth with
  | none => false
  | some d => decide (d ≤ s.stack.length)

/-- `push(stack, a)`: appends at the top end. -/
def push (s : State) (a : Word) : State := { s with stack := s.stack ++ [a] }

/-- The top of the stack, `none` when it is empty. -/
def top (s : State) : Option Word := s.stack.getLast?

/-- Removes the top. -/
def dropTop (s : State) : State := { s with stack := s.stack.dropLast }

/-! ## The random byte (41_alu.md R131) -/

/-- `RandByte()`: the free value of this draw. -/
def drawnByte (s : State) : Byte := Config.randByte s.draws

/-- One draw has been taken. -/
def countDraw (s : State) : State := { s with draws := s.draws + 1 }

/-! ## Keys (10_state.md R28) -/

/-- `key[k]`. -/
def keyDown (s : State) (k : Fin 16) : Bool := s.keys[k]

/-- The least `k` with `key[k]`, if any key is pressed (44_keypad_timers.md R172, D12). -/
def leastKey (s : State) : Option (Fin 16) := (List.finRange 16).find? fun k => keyDown s k

/-! ## The framebuffer (10_state.md R26, R27) -/

/-- `FB[cx][cy]`. -/
def pixel (fb : Screen) (cx : Fin 64) (cy : Fin 32) : Bool := fb[cx][cy]

/-- `FB[cx][cy] <- FB[cx][cy] ^ 1`. -/
def flipPixel (fb : Screen) (cx : Fin 64) (cy : Fin 32) : Screen :=
  fb.set cx (fb[cx].set cy (!fb[cx][cy]))

/-- All 2048 cells 0. -/
def blankScreen : Screen := Vector.replicate 64 (Vector.replicate 32 false)

/-- Replaces the framebuffer and sets the dirty flag: every executed `CLS` and `DRW` sets it (R27). -/
def showScreen (s : State) (fb : Screen) : State := { s with fb := fb, dirty := true }

end Sys2Proof.Machine
end

