-- ==== Sys2Proof/Machine/Operands.lean ====
section
/-!
DEFINITION. The operand forms (spec 30_encoding.md R73, 42_index_memory.md R146): immediates are zero-extended, and the one
addressing mode is I plus a non-negative offset, never wrapped.
-/

namespace Sys2Proof.Machine

/-- A 12-bit address as a 16-bit value, upper bits zero (R73). -/
def address (nnn : BitVec 12) : Word := nnn.setWidth 16

/-- A register's value as a 16-bit value. -/
def wide (b : Byte) : Word := b.setWidth 16

/-- `EA = I + k`, an unbounded natural (R146). -/
def effAddr (s : State) (k : Nat) : Nat := s.i.toNat + k

/-- The check of a whole range before its first access: `I + last <= 0xFFF` (20_memory.md R55). -/
def inMemory (s : State) (last : Nat) : Bool := decide (effAddr s last ≤ 0xFFF)

/-- The fault of a range that leaves memory: the lowest offending address is 0x1000 (R146, 60_exceptions.md R203). -/
def outOfMemory (s : State) (i : Instr) : Result :=
  raise (.outOfBoundsAddress 0x1000 s.pc (some (encode i)))

/-- A value reduced to the 12 bits of I (10_state.md R22, D2). -/
def mask12 (n : Nat) : Word := BitVec.ofNat 16 (n % 4096)

/-- The number of registers that a block transfer up to `Vx` moves. -/
def blockLength (x : Reg) : Nat := x.val + 1

/-- The values of `V[0]` to `V[x]`, in order. -/
def blockValues (s : State) (x : Reg) : List Byte := s.v.toList.take (blockLength x)

/-- `V[k] <- MemRead(I + k, 1)` for k in 0..x (R145). -/
def loadBlock (s : State) (x : Reg) : State :=
  { s with v := Vector.ofFn fun k : Fin 16 => if k ≤ x then s.mem.read (effAddr s k.val) else s.v[k] }

/-- The decimal digits of a byte: hundreds, tens, units (R143). -/
def digits (b : Byte) : List Byte :=
  [BitVec.ofNat 8 (b.toNat / 100), BitVec.ofNat 8 (b.toNat / 10 % 10), BitVec.ofNat 8 (b.toNat % 10)]

/-- I after a block transfer up to `Vx`: `(I + x + 1) & 0xFFF` (R144, R145). -/
def bumpI (s : State) (x : Reg) : State := setI s (mask12 (effAddr s (blockLength x)))

end Sys2Proof.Machine
end

