-- ==== Sys2Proof/Machine/Flags.lean ====
section
/-!
DEFINITION. Every value an instruction writes to VF as a flag (spec 10_state.md R21, 41_alu.md R132), computed from the
operands as unsigned integers.
-/

namespace Sys2Proof.Machine

/-- A flag as the byte that VF holds: 0 or 1 (R21). -/
def flagByte (c : Bool) : Byte := if c then 1 else 0

/-- `VF <- c`. -/
def setFlag (s : State) (c : Bool) : State := setV s vf (flagByte c)

/-- Carry of an addition: the sum exceeds 0xFF (R126). -/
def carry (a b : Byte) : Bool := decide (a.toNat + b.toNat > 0xFF)

/-- No borrow in `a - b`: not `a < b` (R127, R129). -/
def notBorrow (a b : Byte) : Bool := decide (b.toNat ≤ a.toNat)

/-- The bit a right shift pushes out (R128). -/
def lowBit (a : Byte) : Bool := a.getLsbD 0

/-- The bit a left shift pushes out (R130). -/
def highBit (a : Byte) : Bool := a.getLsbD 7

/-- `I + Vx` exceeds 0xFFF (42_index_memory.md R141). -/
def indexOverflow (a : Word) (b : Byte) : Bool := decide (a.toNat + b.toNat > 0xFFF)

end Sys2Proof.Machine
end

