-- ==== Sys2Proof/Machine/Alu.lean ====
section
/-!
DEFINITION. Register load, arithmetic, logic, shift and random instructions (spec 41_alu.md). Operands are read from the
state before the instruction; Vx is written first and VF second (R133).
-/

namespace Sys2Proof.Machine

/-- Writes the result to `V[x]` and advances; no flag. -/
def finish (s : State) (x : Reg) (r : Byte) : Result := .next (advance (setV s x r))

/-- Writes the result to `V[x]`, then the flag to VF, and advances (R133). -/
def finishFlag (s : State) (x : Reg) (r : Byte) (c : Bool) : Result :=
  .next (advance (setFlag (setV s x r) c))

/-- `LD Vx, nn` (R120). -/
def execLdImm (x : Reg) (nn : Byte) (s : State) : Result := finish s x nn

/-- `ADD Vx, nn` (R121): wraps, VF is not written. -/
def execAddImm (x : Reg) (nn : Byte) (s : State) : Result := finish s x (getV s x + nn)

/-- `LD Vx, Vy` (R122). -/
def execLdReg (x y : Reg) (s : State) : Result := finish s x (getV s y)

/-- `OR Vx, Vy` (R123). -/
def execOr (x y : Reg) (s : State) : Result := finish s x (getV s x ||| getV s y)

/-- `AND Vx, Vy` (R124). -/
def execAnd (x y : Reg) (s : State) : Result := finish s x (getV s x &&& getV s y)

/-- `XOR Vx, Vy` (R125). -/
def execXor (x y : Reg) (s : State) : Result := finish s x (getV s x ^^^ getV s y)

/-- `ADD Vx, Vy` (R126). -/
def execAddReg (x y : Reg) (s : State) : Result :=
  finishFlag s x (getV s x + getV s y) (carry (getV s x) (getV s y))

/-- `SUB Vx, Vy` (R127): Vx minus Vy. -/
def execSub (x y : Reg) (s : State) : Result :=
  finishFlag s x (getV s x - getV s y) (notBorrow (getV s x) (getV s y))

/-- `SHR Vx` (R128): in place, `y` ignored (D8). -/
def execShr (x : Reg) (s : State) : Result :=
  finishFlag s x (getV s x >>> 1) (lowBit (getV s x))

/-- `SUBN Vx, Vy` (R129): Vy minus Vx. -/
def execSubn (x y : Reg) (s : State) : Result :=
  finishFlag s x (getV s y - getV s x) (notBorrow (getV s y) (getV s x))

/-- `SHL Vx` (R130): in place, `y` ignored (D8). -/
def execShl (x : Reg) (s : State) : Result :=
  finishFlag s x (getV s x <<< 1) (highBit (getV s x))

/-- `RND Vx, nn` (R131): a free byte AND nn; one draw is taken. -/
def execRnd (x : Reg) (nn : Byte) (s : State) : Result :=
  finish (countDraw s) x (drawnByte s &&& nn)

end Sys2Proof.Machine
end

