-- ==== Sys2Proof/Machine/Control.lean ====
section
/-!
DEFINITION. Control transfer (spec 40_control.md): SYS, RET, JP, CALL, the four skips on registers, JP V0.
-/

namespace Sys2Proof.Machine

/-- `SYS nnn` (R100): always UnknownOpcode, with the word and pc (D6). -/
def execSys (nnn : BitVec 12) (s : State) : Result :=
  raise (.unknownOpcode (encode (.sys nnn)) s.pc)

/-- `RET` (R101): pc is the popped value + 2; the empty stack faults. -/
def execRet (s : State) : Result :=
  match top s with
  | none => raise (.stackUnderflow s.pc)
  | some a => .next (goTo (dropTop s) (a + 2))

/-- `JP nnn` (R102). -/
def execJp (nnn : BitVec 12) (s : State) : Result :=
  .next (goTo s (address nnn))

/-- `CALL nnn` (R103): pushes the address of this instruction; a full stack faults. -/
def execCall (nnn : BitVec 12) (s : State) : Result :=
  if stackFull s then raise (.stackOverflow s.pc)
  else .next (goTo (push s s.pc) (address nnn))

/-- `SE Vx, nn` (R104). -/
def execSeImm (x : Reg) (nn : Byte) (s : State) : Result :=
  .next (skipIf s (getV s x == nn))

/-- `SNE Vx, nn` (R105). -/
def execSneImm (x : Reg) (nn : Byte) (s : State) : Result :=
  .next (skipIf s (getV s x != nn))

/-- `SE Vx, Vy` (R106). -/
def execSeReg (x y : Reg) (s : State) : Result :=
  .next (skipIf s (getV s x == getV s y))

/-- `SNE Vx, Vy` (R107). -/
def execSneReg (x y : Reg) (s : State) : Result :=
  .next (skipIf s (getV s x != getV s y))

/-- `JP V0, nnn` (R108): a 16-bit sum, not masked. -/
def execJpV0 (nnn : BitVec 12) (s : State) : Result :=
  .next (goTo s (address nnn + wide (getV s 0)))

end Sys2Proof.Machine
end

