-- ==== Sys2Proof/Machine/Display.lean ====
section
/-!
DEFINITION. Display instructions (spec 43_display.md): CLS and DRW, with the loops of R161 and the coordinates of R162.
-/

namespace Sys2Proof.Machine

/-- `CLS` (R160). -/
def execCls (s : State) : Result := .next (advance (showScreen s blankScreen))

/-- A framebuffer being drawn on, and whether a cell has gone from 1 to 0 so far. -/
abbrev Drawing := Screen × Bool

/-- One sprite pixel: bit-column `j` of row `r` is bit 7 - j of the row's byte `b` and lands on
`FB[(x0 + j) mod 64][(y0 + r) mod 32]` (R162). A 0 bit leaves its cell alone. -/
def drawPixel (b : Byte) (x0 y0 r : Nat) (d : Drawing) (j : Nat) : Drawing :=
  if b.getLsbD (7 - j) then
    let cx := Fin.ofNat 64 (x0 + j)
    let cy := Fin.ofNat 32 (y0 + r)
    (flipPixel d.1 cx cy, d.2 || pixel d.1 cx cy)
  else d

/-- One sprite row: bit-columns 0 to 7. -/
def drawRow (s : State) (x0 y0 : Nat) (d : Drawing) (r : Nat) : Drawing :=
  (List.range 8).foldl (drawPixel (s.mem.read (effAddr s r)) x0 y0 r) d

/-- Rows 0 to n - 1 on the present framebuffer, no collision yet. -/
def drawSprite (s : State) (x0 y0 n : Nat) : Drawing :=
  (List.range n).foldl (drawRow s x0 y0) (s.fb, false)

/-- The check of `DRW` before anything is drawn: `n > 0` and `I + n - 1 > 0xFFF` is out of memory (R161). -/
def spriteInMemory (s : State) (n : Nat) : Bool := n == 0 || inMemory s (n - 1)

/-- `DRW Vx, Vy, n` (R161): the coordinates are the register values before VF is written. -/
def execDrw (x y : Reg) (n : BitVec 4) (s : State) : Result :=
  if spriteInMemory s n.toNat then
    let d := drawSprite s (getV s x).toNat (getV s y).toNat n.toNat
    .next (advance (setFlag (showScreen s d.1) d.2))
  else outOfMemory s (.drw x y n)

end Sys2Proof.Machine
end

