-- ==== Sys2Proof/Machine/IndexMemory.lean ====
section
/-!
DEFINITION. Address-register, load and store instructions (spec 42_index_memory.md). A range is checked whole before the
first write (20_memory.md R55).
-/

namespace Sys2Proof.Machine

/-- `LD I, nnn` (R140). -/
def execLdI (nnn : BitVec 12) (s : State) : Result := .next (advance (setI s (address nnn)))

/-- `ADD I, Vx` (R141): I reduced to 12 bits, VF = overflow out of 12 bits. -/
def execAddI (x : Reg) (s : State) : Result :=
  .next (advance (setFlag (setI s (mask12 (s.i.toNat + (getV s x).toNat))) (indexOverflow s.i (getV s x))))

/-- `LD F, Vx` (R142): the whole register value times 5. -/
def execLdF (x : Reg) (s : State) : Result :=
  .next (advance (setI s (BitVec.ofNat 16 ((getV s x).toNat * 5))))

/-- `LD B, Vx` (R143): three decimal digits at I, I + 1, I + 2. -/
def execLdB (x : Reg) (s : State) : Result :=
  if inMemory s 2 then
    .next (advance (setMem s (s.mem.writeBytes (effAddr s 0) (digits (getV s x)))))
  else outOfMemory s (.ldB x)

/-- `LD [I], Vx` (R144). -/
def execStoreRegs (x : Reg) (s : State) : Result :=
  if inMemory s x.val then
    .next (advance (bumpI (setMem s (s.mem.writeBytes (effAddr s 0) (blockValues s x))) x))
  else outOfMemory s (.storeRegs x)

/-- `LD Vx, [I]` (R145). -/
def execLoadRegs (x : Reg) (s : State) : Result :=
  if inMemory s x.val then .next (advance (bumpI (loadBlock s x) x))
  else outOfMemory s (.loadRegs x)

end Sys2Proof.Machine
end

