-- ==== Sys2Proof/Machine/KeypadTimers.lean ====
section
/-!
DEFINITION. Keypad and timer instructions (spec 44_keypad_timers.md).
-/

namespace Sys2Proof.Machine

/-- `key[b]`, `none` when the index is above 15 (R170, D11). -/
def keyAt (s : State) (b : Byte) : Option Bool :=
  if h : b.toNat < 16 then some (keyDown s ⟨b.toNat, h⟩) else none

/-- `SKP Vx` (R170). The ignored bits `u` only go into the word that the fault records. -/
def execSkp (x : Reg) (u : BitVec 4) (s : State) : Result :=
  match keyAt s (getV s x) with
  | some p => .next (skipIf s p)
  | none => raise (.keyIndexOutOfRange (getV s x) s.pc (encode (.skp x u)))

/-- `SKNP Vx` (R171). -/
def execSknp (x : Reg) (u : BitVec 4) (s : State) : Result :=
  match keyAt s (getV s x) with
  | some p => .next (skipIf s (!p))
  | none => raise (.keyIndexOutOfRange (getV s x) s.pc (encode (.sknp x u)))

/-- `LD Vx, K` (R172): with no key pressed the Step succeeds and changes nothing. -/
def execLdVxK (x : Reg) (s : State) : Result :=
  match leastKey s with
  | some k => finish s x (BitVec.ofNat 8 k.val)
  | none => .next s

/-- `LD Vx, DT` (R173). -/
def execLdVxDt (x : Reg) (s : State) : Result := finish s x s.dt

/-- `LD DT, Vx` (R174). -/
def execLdDtVx (x : Reg) (s : State) : Result := .next (advance (setDT s (getV s x)))

/-- `LD ST, Vx` (R175). -/
def execLdStVx (x : Reg) (s : State) : Result := .next (advance (setST s (getV s x)))

end Sys2Proof.Machine
end

