-- ==== Sys2Proof/Machine/Fetch.lean ====
section
/-!
DEFINITION. The instruction fetch (spec 30_encoding.md R70, 20_memory.md R55, R59) and its inverse, placing an instruction
where the next fetch reads.
-/

namespace Sys2Proof.Machine

/-- The word at an address: two single-byte reads, high byte first (R52, R70). -/
def wordAt (m : Memory) (a : Nat) : Word := wordOfBytes (m.read a) (m.read (a + 1))

/-- The fetch of a Step: both bytes are checked against the end of memory (60_exceptions.md R200, R203). -/
def fetch (s : State) : Except Fault Word :=
  if 0x1000 ≤ s.pc.toNat then .error (.outOfBoundsAddress s.pc s.pc none)
  else if s.pc.toNat = 0xFFF then .error (.outOfBoundsAddress 0x1000 s.pc none)
  else .ok (wordAt s.mem s.pc.toNat)

/-- Stores a word's two bytes at pc and pc + 1, if both are in memory (log entry 11). -/
def placeWord (s : State) (w : Word) : State :=
  if s.pc.toNat + 1 < Config.memSize then
    setMem s (s.mem.writeBytes s.pc.toNat (bytesOfWord w))
  else s

end Sys2Proof.Machine
end

