-- ==== Sys2Proof/Machine/Step.lean ====
section
/-!
DEFINITION. The Step operation (spec 60_exceptions.md R200): fetch, decode, execute one instruction.
-/

namespace Sys2Proof.Machine

/-- `Step()` (R200): the fetch's fault first, then UnknownOpcode, then what the instruction does (R207). -/
def step (s : State) : Host.Outcome State Fault Refusal :=
  match fetch s with
  | .error f => .fault f
  | .ok w =>
    match decodeWord w with
    | .error _ => .fault (.unknownOpcode w s.pc)
    | .ok i => exec i s

/-- `s` with the word that the opcode table numbers placed where the next Step fetches it. -/
def State.withFetchWord (s : State) (nbits w : Nat) : State := placeWord s (tableWord nbits w)

end Sys2Proof.Machine
end

