-- ==== Sys2Proof/Machine/HostOps.lean ====
section
/-!
DEFINITION. The host's operations (spec 60_exceptions.md R218): Reset, Load, SetKeys, Step, Tick and Read, each run to
completion, never overlapping (00_scope.md R5).
-/

namespace Sys2Proof.Machine

/-! ## Reset (70_reset_and_hazards.md R241) -/

/-- Reset: everything to its reset value, the font written at 0x000 to 0x04F, the rest of memory left as it was.
The model's own fields stay: `stackDepth` is a parameter of the machine and `draws` numbers free values. -/
def resetOp (s : State) : State :=
  { State.reset with
    mem := s.mem.writeBytes 0 fontBytes, stackDepth := s.stackDepth, draws := s.draws }

/-! ## Load (70_reset_and_hazards.md R242) -/

/-- Whether `Load(bytes, base)` succeeds: some data, and no byte past the end of memory. -/
def loadFits (bytes : List Byte) (base : Nat) : Bool :=
  bytes ≠ [] && decide (base + bytes.length ≤ Config.memSize)

/-- Load: copies the bytes to memory from `base` up, or fails and changes nothing. -/
def load (bytes : List Byte) (base : Nat := Config.progBase) (s : State) : State × OpResult :=
  if loadFits bytes base then (setMem s (s.mem.writeBytes base bytes), .ok) else (s, .loadError)

/-! ## SetKeys (60_exceptions.md R219) -/

/-- The host overwrites the whole key vector. -/
def setKeys (ks : Vector Bool 16) (s : State) : State := { s with keys := ks }

/-- The host overwrites one key. -/
def setKey (k : Fin 16) (pressed : Bool) (s : State) : State := { s with keys := s.keys.set k pressed }

/-! ## Step (R200) -/

/-- A Step as an operation on the state: a fault leaves the whole state as it was (R208). -/
def stepOp (s : State) : State × OpResult :=
  match step s with
  | .next t => (t, .ok)
  | .fault f => (s, .fault f)
  | .refused r => (s, .refused r)

/-! ## Tick (R214 to R217) -/

/-- Tick start: both flags cleared (R215). -/
def tickStart (s : State) : State := { s with dirty := false, beep := false }

/-- A timer counted down by 1, floor at 0 (R216). -/
def countDown (t : Byte) : Byte := if t = 0 then 0 else t - 1

/-- Tick end: beep if ST is exactly 1, tested before both timers are counted down (R216). -/
def tickEnd (s : State) : State :=
  { s with beep := s.beep || (s.st == 1), dt := countDown s.dt, st := countDown s.st }

/-- The first failure of the two results. -/
def firstFailure (earlier later : OpResult) : OpResult := if earlier = .ok then later else earlier

/-- `c` Steps, all attempted; the result is the first failure (R214, R217). -/
def tickSteps : Nat → State → OpResult → State × OpResult
  | 0, s, r => (s, r)
  | c + 1, s, r => tickSteps c (stepOp s).1 (firstFailure r (stepOp s).2)

/-- `Tick(c)` (R214): the tick-end actions happen also when a Step failed (R217, D17). -/
def tick (c : Nat) (s : State) : State × OpResult :=
  let d := tickSteps c (tickStart s) .ok
  (tickEnd d.1, d.2)

/-! ## Any operation, and sequences of them (00_scope.md R5) -/

/-- What an operation of the host does to the state and what it returns. -/
def applyOp (op : HostOp) (s : State) : State × OpResult :=
  match op with
  | .reset => (resetOp s, .ok)
  | .load bytes base => load bytes base s
  | .setKeys ks => (setKeys ks s, .ok)
  | .setKey k pressed => (setKey k pressed s, .ok)
  | .step => stepOp s
  | .tick c => tick c s

/-- The state after a sequence of operations. -/
def runOps : List HostOp → State → State
  | [], s => s
  | op :: ops, s => runOps ops (applyOp op s).1

/-! ## Read (10_state.md R34, 60_exceptions.md R220, R221, R223) -/

/-- The flat view of the framebuffer: cell index = cx * 32 + cy, column-major (R26, R220, D14). -/
def flatCells (fb : Screen) : List Bool := fb.toList.flatMap Vector.toList

/-- What the host reads; reading changes nothing (R34). -/
def readSel (sel : ReadSel) (s : State) : ReadVal :=
  match sel with
  | .framebuffer => .cells (flatCells s.fb)
  | .dirty => .flag s.dirty
  | .beep => .flag s.beep
  | .reg x => .byte (getV s x)
  | .pc => .word s.pc
  | .addressReg => .word s.i
  | .delayTimer => .byte s.dt
  | .soundTimer => .byte s.st
  | .key k => .flag (keyDown s k)
  | .memory a => .byte (s.mem.read a.val)
  | .stack => .words s.stack

end Sys2Proof.Machine
end

