-- ==== Sys2Proof/Safety.lean ====
section
/-!
DEFINITION. The terms in which claims are stated: the invariant of the machine, the parts of the state for frames, and a
fault-free run.
-/

namespace Sys2Proof.Machine

/-- What holds of every state the machine can be in after Reset: memory in canonical form, I within 12 bits
(10_state.md R22), pc at most 0x10FE (R23), every stack entry the address of a CALL that was fetched, and the stack no
deeper than `STACK_DEPTH` (R24). -/
structure MachineInv (s : State) : Prop where
  memWf : s.mem.wf = true
  indexBound : s.i.toNat ≤ 0xFFF
  pcBound : s.pc.toNat ≤ 0x10FE
  stackEntries : ∀ a ∈ s.stack, a.toNat ≤ 0xFFE
  stackBound : ∀ d, s.stackDepth = some d → s.stack.length ≤ d

/-- The parts of the state that a frame names. -/
inductive Part where
  | regs
  | index
  | pc
  | stack
  | dt
  | st
  | screen
  | dirty
  | keys
  | beep
  | mem
  | stackDepth
  | draws
  deriving DecidableEq, Repr

/-- A part is the same in two states; memory and framebuffer through their reads. -/
def Part.Same (p : Part) (s t : State) : Prop :=
  match p with
  | .regs => ∀ r, getV t r = getV s r
  | .index => t.i = s.i
  | .pc => t.pc = s.pc
  | .stack => t.stack = s.stack
  | .dt => t.dt = s.dt
  | .st => t.st = s.st
  | .screen => ∀ cx cy, pixel t.fb cx cy = pixel s.fb cx cy
  | .dirty => t.dirty = s.dirty
  | .keys => ∀ k, keyDown t k = keyDown s k
  | .beep => t.beep = s.beep
  | .mem => ∀ a, t.mem.read a = s.mem.read a
  | .stackDepth => t.stackDepth = s.stackDepth
  | .draws => t.draws = s.draws

/-- The frame: from `s` to `t` every part but the named ones is unchanged. -/
def OnlyChanges (parts : List Part) (s t : State) : Prop := ∀ p, p ∉ parts → p.Same s t

/-- Every register but the named ones is unchanged. -/
def RegsSameBut (rs : List Reg) (s t : State) : Prop := ∀ r, r ∉ rs → getV t r = getV s r

/-! ## Who writes what (10_state.md R33, the column "writes") -/

/-- The parts of the state that an instruction may write, pc included (R33). The model's `draws` counts the RandByte input. -/
def writtenParts : Instr → List Part
  | .cls _ => [.screen, .dirty, .pc]
  | .ret _ => [.stack, .pc]
  | .sys _ => []
  | .jp _ => [.pc]
  | .call _ => [.stack, .pc]
  | .seImm _ _ => [.pc]
  | .sneImm _ _ => [.pc]
  | .seReg _ _ _ => [.pc]
  | .ldImm _ _ => [.regs, .pc]
  | .addImm _ _ => [.regs, .pc]
  | .ldReg _ _ => [.regs, .pc]
  | .orReg _ _ => [.regs, .pc]
  | .andReg _ _ => [.regs, .pc]
  | .xorReg _ _ => [.regs, .pc]
  | .addReg _ _ => [.regs, .pc]
  | .subReg _ _ => [.regs, .pc]
  | .shr _ _ => [.regs, .pc]
  | .subnReg _ _ => [.regs, .pc]
  | .shl _ _ => [.regs, .pc]
  | .sneReg _ _ _ => [.pc]
  | .ldI _ => [.index, .pc]
  | .jpV0 _ => [.pc]
  | .rnd _ _ => [.regs, .draws, .pc]
  | .drw _ _ _ => [.screen, .regs, .dirty, .pc]
  | .skp _ _ => [.pc]
  | .sknp _ _ => [.pc]
  | .ldVxDt _ => [.regs, .pc]
  | .ldVxK _ => [.regs, .pc]
  | .ldDtVx _ => [.dt, .pc]
  | .ldStVx _ => [.st, .pc]
  | .addI _ => [.index, .regs, .pc]
  | .ldF _ => [.index, .pc]
  | .ldB _ => [.mem, .pc]
  | .storeRegs _ => [.mem, .index, .pc]
  | .loadRegs _ => [.regs, .index, .pc]

/-- The registers that an instruction may write (R33). -/
def writtenRegs : Instr → List Reg
  | .cls _ => []
  | .ret _ => []
  | .sys _ => []
  | .jp _ => []
  | .call _ => []
  | .seImm _ _ => []
  | .sneImm _ _ => []
  | .seReg _ _ _ => []
  | .ldImm x _ => [x]
  | .addImm x _ => [x]
  | .ldReg x _ => [x]
  | .orReg x _ => [x]
  | .andReg x _ => [x]
  | .xorReg x _ => [x]
  | .addReg x _ => [x, vf]
  | .subReg x _ => [x, vf]
  | .shr x _ => [x, vf]
  | .subnReg x _ => [x, vf]
  | .shl x _ => [x, vf]
  | .sneReg _ _ _ => []
  | .ldI _ => []
  | .jpV0 _ => []
  | .rnd x _ => [x]
  | .drw _ _ _ => [vf]
  | .skp _ _ => []
  | .sknp _ _ => []
  | .ldVxDt x => [x]
  | .ldVxK x => [x]
  | .ldDtVx _ => []
  | .ldStVx _ => []
  | .addI _ => [vf]
  | .ldF _ => []
  | .ldB _ => []
  | .storeRegs _ => []
  | .loadRegs x => (List.finRange 16).filter fun k => k ≤ x

/-- The addresses that an instruction stores to in state `s`, through the `effAddr` its meaning uses (R33, R56). -/
def storedAddrs (i : Instr) (s : State) : List Nat :=
  match i with
  | .cls _ => []
  | .ret _ => []
  | .sys _ => []
  | .jp _ => []
  | .call _ => []
  | .seImm _ _ => []
  | .sneImm _ _ => []
  | .seReg _ _ _ => []
  | .ldImm _ _ => []
  | .addImm _ _ => []
  | .ldReg _ _ => []
  | .orReg _ _ => []
  | .andReg _ _ => []
  | .xorReg _ _ => []
  | .addReg _ _ => []
  | .subReg _ _ => []
  | .shr _ _ => []
  | .subnReg _ _ => []
  | .shl _ _ => []
  | .sneReg _ _ _ => []
  | .ldI _ => []
  | .jpV0 _ => []
  | .rnd _ _ => []
  | .drw _ _ _ => []
  | .skp _ _ => []
  | .sknp _ _ => []
  | .ldVxDt _ => []
  | .ldVxK _ => []
  | .ldDtVx _ => []
  | .ldStVx _ => []
  | .addI _ => []
  | .ldF _ => []
  | .ldB _ => (List.range 3).map (effAddr s)
  | .storeRegs x => (List.range (x.val + 1)).map (effAddr s)
  | .loadRegs _ => []

/-- What a byte of memory reads as once the bytes `bs` have been stored from I up, every other byte kept
(20_memory.md R59). -/
def byteAfterStore (s : State) (bs : List Byte) (a : Nat) : Byte :=
  if effAddr s 0 ≤ a then (bs[a - effAddr s 0]?).getD (s.mem.read a) else s.mem.read a

/-- A 1 bit of the sprite of `n` rows at I, drawn at (x0, y0), lands on cell (cx, cy) (43_display.md R162). -/
def SpriteCovers (s : State) (x0 y0 n cx cy : Nat) : Prop :=
  ∃ r j, r < n ∧ j < 8 ∧ (x0 + j) % 64 = cx ∧ (y0 + r) % 32 = cy ∧
    (s.mem.read (s.i.toNat + r)).getLsbD (7 - j) = true

/-- Two words differ only in bits that the dispatcher does not examine (30_encoding.md R79): bits 11:4 of `CLS` and `RET`,
bits 3:0 of families 5 and 9, bits 7:4 of `SKP` and `SKNP`, bits 7:4 of the two shifts. -/
def SameButIgnored (w c : Word) : Prop :=
  w.toNat / 4096 = c.toNat / 4096 ∧
  ((w.toNat / 4096 = 0x0 ∧ (w.toNat % 16 = 0x0 ∨ w.toNat % 16 = 0xE) ∧ w.toNat % 16 = c.toNat % 16) ∨
   ((w.toNat / 4096 = 0x5 ∨ w.toNat / 4096 = 0x9) ∧ w.toNat / 16 = c.toNat / 16) ∨
   (w.toNat / 4096 = 0xE ∧ w.toNat / 256 = c.toNat / 256 ∧ w.toNat % 16 = c.toNat % 16) ∨
   (w.toNat / 4096 = 0x8 ∧ (w.toNat % 16 = 0x6 ∨ w.toNat % 16 = 0xE) ∧ w.toNat / 256 = c.toNat / 256 ∧
     w.toNat % 16 = c.toNat % 16))

/-- `k` Steps from `s` without a fault: what a claim about a run takes as its premise (60_exceptions.md R211). -/
def RunsFor : Nat → State → Prop
  | 0, _ => True
  | k + 1, s => ∃ t, step s = .next t ∧ RunsFor k t

end Sys2Proof.Machine
end

