-- ==== Sys2Proof/Certificates/Slice0/Obligations.lean ====
section
/-!
DEFINITION. The statements for the provers. Each docstring names the rules of spec/ that it formalises. Where a clause rests on
a choice that the spec marks as its own (92_eei_decisions.md D<n>) or on an entry of the assumption log, the docstring says so.
A statement that an instruction answers a next state is also its completion statement.
-/

open Sys2Proof Sys2Proof.Machine

/-! ## Encoding -/

/-- Decoding the word of a well-formed instruction gives it back, every operand and every ignored bit included
(30_encoding.md R72, R74, R84). That the ignored bits belong to the instruction is the model's choice (log entry 6). -/
def Obligations.DecodeUndoesEncode : Prop :=
  ∀ i : Instr, wellFormed i = true → decodeWord (encode i) = .ok i

/-- Every word that decodes is the word of exactly that instruction, and the instruction is well formed
(30_encoding.md R74, R84; the ignored bits as in log entry 6). -/
def Obligations.EncodeUndoesDecode : Prop :=
  ∀ (w : Word) (i : Instr), decodeWord w = .ok i → encode i = w ∧ wellFormed i = true

/-- R80: a word that a Step fetches raises UnknownOpcode exactly when it is in one of the four sets. The family-0x0 set rests
on D6 (SYS has no handler). -/
def Obligations.UnknownOpcodeExactlyTheFourSets : Prop :=
  ∀ (w : Word) (s : State), s.pc.toNat ≤ 0xFFE → wordAt s.mem s.pc.toNat = w →
    (step s = .fault (.unknownOpcode w s.pc) ↔
      (w.toNat / 4096 = 0x0 ∧ w.toNat % 16 ∉ [0x0, 0xE]) ∨
      (w.toNat / 4096 = 0x8 ∧ w.toNat % 16 ∈ [0x8, 0x9, 0xA, 0xB, 0xC, 0xD, 0xF]) ∨
      (w.toNat / 4096 = 0xE ∧ w.toNat % 16 ∉ [0x1, 0xE]) ∨
      (w.toNat / 4096 = 0xF ∧
        w.toNat % 256 ∉ [0x07, 0x0A, 0x15, 0x18, 0x1E, 0x29, 0x33, 0x55, 0x65]))

/-- Words written out from 30_encoding.md R74, each classified in 95_test_vectors.md, at least one with each of the 16 top
nibbles: what they decode to. The opcode numbers are the standard ones (D34, G1). That SYS, an unknown word of the spec,
decodes to an instruction of its own is the model's reading (log entry 14), that ignored bits are fields of an instruction
its choice (log entry 6). -/
def Obligations.WordsFromTheTableDecode : Prop :=
  decodeWord 0x00E0 = .ok (.cls 0x0E) ∧ decodeWord 0x00EE = .ok (.ret 0x0E) ∧
  decodeWord 0x0123 = .ok (.sys 0x123) ∧ decodeWord 0x1234 = .ok (.jp 0x234) ∧
  decodeWord 0x2300 = .ok (.call 0x300) ∧ decodeWord 0x3A07 = .ok (.seImm 0xA 0x07) ∧
  decodeWord 0x4A07 = .ok (.sneImm 0xA 0x07) ∧ decodeWord 0x5AB7 = .ok (.seReg 0xA 0xB 0x7) ∧
  decodeWord 0x6A02 = .ok (.ldImm 0xA 0x02) ∧ decodeWord 0x7A05 = .ok (.addImm 0xA 0x05) ∧
  decodeWord 0x8127 = .ok (.subnReg 1 2) ∧ decodeWord 0x8AB8 = .error (.unknownFamily8 0x8AB8) ∧
  decodeWord 0x9ABF = .ok (.sneReg 0xA 0xB 0xF) ∧ decodeWord 0xA2F0 = .ok (.ldI 0x2F0) ∧
  decodeWord 0xB210 = .ok (.jpV0 0x210) ∧ decodeWord 0xC10F = .ok (.rnd 1 0x0F) ∧
  decodeWord 0xD125 = .ok (.drw 1 2 5) ∧ decodeWord 0xEA9E = .ok (.skp 0xA 0x9) ∧
  decodeWord 0xEAA1 = .ok (.sknp 0xA 0xA) ∧ decodeWord 0xEA9F = .error (.unknownFamilyE 0xEA9F) ∧
  decodeWord 0xF255 = .ok (.storeRegs 2) ∧ decodeWord 0xFA30 = .error (.unknownFamilyF 0xFA30)

/-- R79, D7, D8: two words that differ only in bits the dispatcher does not examine do the same in every state. -/
def Obligations.IgnoredBitsChangeNothing : Prop :=
  ∀ (w c : Word) (i j : Instr), SameButIgnored w c → decodeWord w = .ok i → decodeWord c = .ok j →
    ∀ s t, exec i s = .next t ↔ exec j s = .next t

/-! ## The Step -/

/-- R200, the Step procedure: the two fetch faults, UnknownOpcode, and otherwise the decoded instruction's own rule; the word
is `(mem[pc] << 8) | mem[pc + 1]`. A Step never touches beep, and touches DT, ST and dirty only through the four instructions
named; it takes one draw if the instruction is RND and none otherwise. -/
def Obligations.StepProcedure : Prop :=
  ∀ s : State,
    (0x1000 ≤ s.pc.toNat → step s = .fault (.outOfBoundsAddress s.pc s.pc none)) ∧
    (s.pc.toNat = 0xFFF → step s = .fault (.outOfBoundsAddress 0x1000 s.pc none)) ∧
    (s.pc.toNat ≤ 0xFFE → ∀ w : Word,
      w = ((s.mem.read s.pc.toNat).setWidth 16 <<< 8) ||| (s.mem.read (s.pc.toNat + 1)).setWidth 16 →
      (∀ e, decodeWord w = .error e → step s = .fault (.unknownOpcode w s.pc)) ∧
      (∀ i, decodeWord w = .ok i → step s = exec i s ∧ ∀ t, exec i s = .next t →
        t.beep = s.beep ∧
        (t.dt ≠ s.dt → ∃ x, i = .ldDtVx x) ∧
        (t.st ≠ s.st → ∃ x, i = .ldStVx x) ∧
        (t.dirty ≠ s.dirty → (∃ u, i = .cls u) ∨ ∃ x y n, i = .drw x y n) ∧
        ((∃ x nn, i = .rnd x nn) → t.draws = s.draws + 1) ∧
        ((¬∃ x nn, i = .rnd x nn) → t.draws = s.draws)))

/-- R33, the column "writes": every instruction changes only the parts, the registers and the bytes of memory that the table
gives it. The stored addresses are computed by the `effAddr` that the meanings use, in the state before the instruction. -/
def Obligations.EveryInstructionWritesOnlyItsOwn : Prop :=
  ∀ i s t, exec i s = .next t →
    OnlyChanges (writtenParts i) s t ∧ RegsSameBut (writtenRegs i) s t ∧
    ∀ a, a ∉ storedAddrs i s → t.mem.read a = s.mem.read a

/-- R109: the pc after every instruction that does not fault; a faulting Step leaves the state, pc included, unchanged.
Rests on D5 (faults), D12 (the awaited key) and D18 (JP V0). -/
def Obligations.PcAfterEveryInstruction : Prop :=
  (∀ i s t, exec i s = .next t →
    match i with
    | .sys _ => False
    | .jp nnn => t.pc.toNat = nnn.toNat
    | .jpV0 nnn => t.pc.toNat = nnn.toNat + (getV s 0).toNat
    | .call nnn => t.pc.toNat = nnn.toNat
    | .ret _ => ∃ rest a, s.stack = rest ++ [a] ∧ t.pc = a + 2
    | .seImm x nn => t.pc = if getV s x = nn then s.pc + 4 else s.pc + 2
    | .sneImm x nn => t.pc = if getV s x ≠ nn then s.pc + 4 else s.pc + 2
    | .seReg x y _ => t.pc = if getV s x = getV s y then s.pc + 4 else s.pc + 2
    | .sneReg x y _ => t.pc = if getV s x ≠ getV s y then s.pc + 4 else s.pc + 2
    | .skp x _ => ∃ k : Fin 16, k.val = (getV s x).toNat ∧
        t.pc = if keyDown s k = true then s.pc + 4 else s.pc + 2
    | .sknp x _ => ∃ k : Fin 16, k.val = (getV s x).toNat ∧
        t.pc = if keyDown s k = true then s.pc + 2 else s.pc + 4
    | .ldVxK _ => t.pc = if ∃ k, keyDown s k = true then s.pc + 2 else s.pc
    | _ => t.pc = s.pc + 2) ∧
  ∀ s f, step s = .fault f → stepOp s = (s, .fault f)

/-- R207 with R201 to R205: exactly when each instruction faults and with which fault; no instruction is refused. Rests on
D1, D3, D4, D6, D11. -/
def Obligations.FaultsOfEveryInstruction : Prop :=
  ∀ i s, (∀ r, exec i s ≠ .refused r) ∧ ∀ f, exec i s = .fault f ↔
    match i with
    | .sys nnn => f = .unknownOpcode (BitVec.ofNat 16 nnn.toNat) s.pc
    | .ret _ => s.stack = [] ∧ f = .stackUnderflow s.pc
    | .call _ => (∃ d, s.stackDepth = some d ∧ d ≤ s.stack.length) ∧ f = .stackOverflow s.pc
    | .skp x u => 15 < (getV s x).toNat ∧ f = .keyIndexOutOfRange (getV s x) s.pc (encode (.skp x u))
    | .sknp x u => 15 < (getV s x).toNat ∧ f = .keyIndexOutOfRange (getV s x) s.pc (encode (.sknp x u))
    | .drw x y n => (0 < n.toNat ∧ 0xFFF < s.i.toNat + n.toNat - 1) ∧
        f = .outOfBoundsAddress 0x1000 s.pc (some (encode (.drw x y n)))
    | .ldB x => 0xFFF < s.i.toNat + 2 ∧ f = .outOfBoundsAddress 0x1000 s.pc (some (encode (.ldB x)))
    | .storeRegs x => 0xFFF < s.i.toNat + x.val ∧
        f = .outOfBoundsAddress 0x1000 s.pc (some (encode (.storeRegs x)))
    | .loadRegs x => 0xFFF < s.i.toNat + x.val ∧
        f = .outOfBoundsAddress 0x1000 s.pc (some (encode (.loadRegs x)))
    | _ => False

/-- R211, R208, D5, D30: after a fault the host's operations other than Load and Reset, however many, leave every part of the
state but keys, timers and flags as it was, and a further Step repeats the same fault (no fault depends on the keys, nor on
what a Tick writes). After an UnknownOpcode a Load of an instruction's word over the unknown one makes the next Step run it. -/
def Obligations.FaultRepeatsUntilLoadOrReset : Prop :=
  ∀ s f, step s = .fault f →
    (∀ ops : List HostOp, (∀ op ∈ ops, op ≠ .reset ∧ ∀ bytes base, op ≠ .load bytes base) →
      step (runOps ops s) = .fault f ∧ OnlyChanges [.keys, .dt, .st, .dirty, .beep] s (runOps ops s)) ∧
    (∀ w p, f = .unknownOpcode w p → ∀ i, wellFormed i = true →
      ∃ t, applyOp (.load (bytesOfWord (encode i)) s.pc.toNat) s = (t, .ok) ∧
        OnlyChanges [.mem] s t ∧ step t = exec i t)

/-- R100, D6: `SYS nnn` stops in every state, with the word 0x0nnn and pc. -/
def Obligations.SysAlwaysFaults : Prop :=
  ∀ (nnn : BitVec 12) s, exec (.sys nnn) s = .fault (.unknownOpcode (BitVec.ofNat 16 nnn.toNat) s.pc)

/-! ## Control transfer -/

/-- R102, `JP nnn`: pc is nnn, nothing else changes; to its own address it changes nothing; nnn = 0xFFF makes the next Step
fault with OutOfBoundsAddress(0x1000). -/
def Obligations.JumpSetsPc : Prop :=
  ∀ (nnn : BitVec 12) s, ∃ t, exec (.jp nnn) s = .next t ∧ t.pc.toNat = nnn.toNat ∧
    OnlyChanges [.pc] s t ∧ (nnn.toNat = s.pc.toNat → t = s) ∧
    (nnn = 0xFFF → step t = .fault (.outOfBoundsAddress 0x1000 t.pc none))

/-- R108, D18, D28, `JP V0, nnn`: pc is nnn + V0, not masked; above 0xFFE the next Step faults at fetch. -/
def Obligations.JumpWithOffsetAddsV0 : Prop :=
  ∀ (nnn : BitVec 12) s, ∃ t, exec (.jpV0 nnn) s = .next t ∧
    t.pc.toNat = nnn.toNat + (getV s 0).toNat ∧ OnlyChanges [.pc] s t ∧
    (0xFFE < nnn.toNat + (getV s 0).toNat →
      step t = .fault (.outOfBoundsAddress (if t.pc.toNat = 0xFFF then 0x1000 else t.pc) t.pc none))

/-- R103, D3, `CALL nnn` with room on the stack: pushes its own address, pc is nnn. -/
def Obligations.CallPushesItsAddress : Prop :=
  ∀ (nnn : BitVec 12) s, (∀ d, s.stackDepth = some d → s.stack.length < d) →
    ∃ t, exec (.call nnn) s = .next t ∧ t.stack = s.stack ++ [s.pc] ∧ t.pc.toNat = nnn.toNat ∧
      OnlyChanges [.stack, .pc] s t

/-- R101, D4, `RET` with a non-empty stack: pc is the top + 2, the top is gone. -/
def Obligations.ReturnPopsAndAddsTwo : Prop :=
  ∀ u s rest a, s.stack = rest ++ [a] →
    ∃ t, exec (.ret u) s = .next t ∧ t.pc = a + 2 ∧ t.stack = rest ∧ OnlyChanges [.stack, .pc] s t

/-- R101, R103 and the source's scenario S8 for every call: a RET reached with the stack that the CALL left goes just past the
CALL and leaves the stack as it was before it. -/
def Obligations.ReturnLandsPastItsCall : Prop :=
  ∀ nnn u s t t', exec (.call nnn) s = .next t → t'.stack = t.stack →
    ∃ r, exec (.ret u) t' = .next r ∧ r.pc = s.pc + 2 ∧ r.stack = s.stack

/-- R104, R105: the skips on an immediate, their targets, nothing else changed; taken at 0xFFE, pc is 0x1002 and the next
Step faults. -/
def Obligations.SkipsOnImmediate : Prop :=
  ∀ x nn s,
    (∃ t, exec (.seImm x nn) s = .next t ∧ OnlyChanges [.pc] s t ∧
      (getV s x = nn → t.pc = s.pc + 4) ∧ (getV s x ≠ nn → t.pc = s.pc + 2) ∧
      (s.pc = 0xFFE → getV s x = nn → step t = .fault (.outOfBoundsAddress 0x1002 0x1002 none))) ∧
    (∃ t, exec (.sneImm x nn) s = .next t ∧ OnlyChanges [.pc] s t ∧
      (getV s x ≠ nn → t.pc = s.pc + 4) ∧ (getV s x = nn → t.pc = s.pc + 2) ∧
      (s.pc = 0xFFE → getV s x ≠ nn → step t = .fault (.outOfBoundsAddress 0x1002 0x1002 none)))

/-- R106, R107, D7: the skips on two registers, whatever the low nibble is; x = y always skips, respectively never. -/
def Obligations.SkipsOnRegisters : Prop :=
  ∀ x y u s,
    (∃ t, exec (.seReg x y u) s = .next t ∧ OnlyChanges [.pc] s t ∧
      (getV s x = getV s y → t.pc = s.pc + 4) ∧ (getV s x ≠ getV s y → t.pc = s.pc + 2) ∧
      (x = y → t.pc = s.pc + 4)) ∧
    (∃ t, exec (.sneReg x y u) s = .next t ∧ OnlyChanges [.pc] s t ∧
      (getV s x ≠ getV s y → t.pc = s.pc + 4) ∧ (getV s x = getV s y → t.pc = s.pc + 2) ∧
      (x = y → t.pc = s.pc + 2))

/-! ## Register arithmetic and logic -/

/-- R120, `LD Vx, nn`, encoded 6xnn: Vx is nn (VF too, when x = 0xF), pc + 2, nothing else. -/
def Obligations.LoadImmediateSetsVx : Prop :=
  ∀ x nn s, decodeWord (BitVec.ofNat 16 (0x6000 + 256 * x.val + nn.toNat)) = .ok (.ldImm x nn) ∧
    ∃ t, exec (.ldImm x nn) s = .next t ∧ getV t x = nn ∧ t.pc = s.pc + 2 ∧
    RegsSameBut [x] s t ∧ OnlyChanges [.regs, .pc] s t

/-- R121, D10, `ADD Vx, nn`: the sum modulo 256, VF not written even when it wraps. -/
def Obligations.AddImmediateWraps : Prop :=
  ∀ x nn s, ∃ t, exec (.addImm x nn) s = .next t ∧
    (getV t x).toNat = ((getV s x).toNat + nn.toNat) % 256 ∧ t.pc = s.pc + 2 ∧
    RegsSameBut [x] s t ∧ OnlyChanges [.regs, .pc] s t

/-- R122 to R125, D10 (meanings from general knowledge, G1): copy, OR, AND, XOR bit by bit; VF is untouched unless x = 0xF. -/
def Obligations.CopyAndLogicBitwise : Prop :=
  ∀ x y s,
    (∃ t, exec (.ldReg x y) s = .next t ∧ getV t x = getV s y ∧ t.pc = s.pc + 2 ∧
      RegsSameBut [x] s t ∧ OnlyChanges [.regs, .pc] s t) ∧
    (∃ t, exec (.orReg x y) s = .next t ∧
      (∀ k, (getV t x).getLsbD k = ((getV s x).getLsbD k || (getV s y).getLsbD k)) ∧ t.pc = s.pc + 2 ∧
      RegsSameBut [x] s t ∧ OnlyChanges [.regs, .pc] s t) ∧
    (∃ t, exec (.andReg x y) s = .next t ∧
      (∀ k, (getV t x).getLsbD k = ((getV s x).getLsbD k && (getV s y).getLsbD k)) ∧ t.pc = s.pc + 2 ∧
      RegsSameBut [x] s t ∧ OnlyChanges [.regs, .pc] s t) ∧
    (∃ t, exec (.xorReg x y) s = .next t ∧
      (∀ k, (getV t x).getLsbD k = xor ((getV s x).getLsbD k) ((getV s y).getLsbD k)) ∧ t.pc = s.pc + 2 ∧
      RegsSameBut [x] s t ∧ OnlyChanges [.regs, .pc] s t)

/-- R126, `ADD Vx, Vy`: VF is 1 exactly when the sum exceeds 255, for every x; Vx is the sum modulo 256 when x is not 0xF
(with x = 0xF the flag wins: D9). -/
def Obligations.AddRegistersSumAndCarry : Prop :=
  ∀ x y s, ∃ t, exec (.addReg x y) s = .next t ∧
    (x ≠ 15 → (getV t x).toNat = ((getV s x).toNat + (getV s y).toNat) % 256) ∧
    (getV t 15).toNat = (if (getV s x).toNat + (getV s y).toNat > 255 then 1 else 0) ∧
    t.pc = s.pc + 2 ∧ RegsSameBut [x, 15] s t ∧ OnlyChanges [.regs, .pc] s t

/-- R127, R129, D9 (which is reversed: general knowledge, G5), `SUB` and `SUBN`: the difference modulo 256, VF 0 exactly when
the minuend is below the subtrahend. -/
def Obligations.SubtractsDifferenceAndNotBorrow : Prop :=
  ∀ x y s,
    (∃ t, exec (.subReg x y) s = .next t ∧
      (x ≠ 15 → ((getV t x).toNat : Int) = ((getV s x).toNat - (getV s y).toNat : Int) % 256) ∧
      (getV t 15).toNat = (if (getV s x).toNat < (getV s y).toNat then 0 else 1) ∧
      t.pc = s.pc + 2 ∧ RegsSameBut [x, 15] s t ∧ OnlyChanges [.regs, .pc] s t) ∧
    (∃ t, exec (.subnReg x y) s = .next t ∧
      (x ≠ 15 → ((getV t x).toNat : Int) = ((getV s y).toNat - (getV s x).toNat : Int) % 256) ∧
      (getV t 15).toNat = (if (getV s y).toNat < (getV s x).toNat then 0 else 1) ∧
      t.pc = s.pc + 2 ∧ RegsSameBut [x, 15] s t ∧ OnlyChanges [.regs, .pc] s t)

/-- R128, R130, D8, D9, the shifts: Vx in place by one, whatever y is; VF is the bit shifted out of the old Vx. -/
def Obligations.ShiftsMoveByOne : Prop :=
  ∀ x y s,
    (∃ t, exec (.shr x y) s = .next t ∧
      (x ≠ 15 → (getV t x).toNat = (getV s x).toNat / 2) ∧ (getV t 15).toNat = (getV s x).toNat % 2 ∧
      t.pc = s.pc + 2 ∧ RegsSameBut [x, 15] s t ∧ OnlyChanges [.regs, .pc] s t) ∧
    (∃ t, exec (.shl x y) s = .next t ∧
      (x ≠ 15 → (getV t x).toNat = 2 * (getV s x).toNat % 256) ∧ (getV t 15).toNat = (getV s x).toNat / 128 ∧
      t.pc = s.pc + 2 ∧ RegsSameBut [x, 15] s t ∧ OnlyChanges [.regs, .pc] s t)

/-- R131, D15, `RND Vx, nn`: Vx is the draw's free byte AND nn, so at most nn and 0 in every bit that nn has 0, for every value
of the draw; exactly one draw is taken (log entry 3). -/
def Obligations.RandomIsMasked : Prop :=
  ∀ x nn s, ∃ t, exec (.rnd x nn) s = .next t ∧
    (∀ k, (getV t x).getLsbD k = ((Config.randByte s.draws).getLsbD k && nn.getLsbD k)) ∧
    (getV t x).toNat ≤ nn.toNat ∧ t.draws = s.draws + 1 ∧ t.pc = s.pc + 2 ∧
    RegsSameBut [x] s t ∧ OnlyChanges [.regs, .draws, .pc] s t

/-! ## Address register and memory -/

/-- R140, `LD I, nnn`: I is nnn. From nnn = 0xFFF every address at offset 1 or more is past memory, and an instruction that
accesses one faults (D1): the block transfers with x at least 1, `LD B`, `DRW` with n at least 2. -/
def Obligations.LoadIndexSetsI : Prop :=
  ∀ (nnn : BitVec 12) s, ∃ t, exec (.ldI nnn) s = .next t ∧ t.i.toNat = nnn.toNat ∧ t.pc = s.pc + 2 ∧
    OnlyChanges [.index, .pc] s t ∧
    (nnn = 0xFFF → (∀ k, 1 ≤ k → 0xFFF < effAddr t k) ∧
      ∀ j, (∃ x : Reg, 1 ≤ x ∧ (j = .storeRegs x ∨ j = .loadRegs x)) ∨ (∃ x, j = .ldB x) ∨
          (∃ x y n, 2 ≤ n.toNat ∧ j = .drw x y n) →
        exec j t = .fault (.outOfBoundsAddress 0x1000 t.pc (some (encode j))))

/-- R141, D2, D9, `ADD I, Vx`: I modulo 4096, VF = 1 exactly when the sum exceeds 0xFFF. -/
def Obligations.AddIndexMasksAndFlags : Prop :=
  ∀ x s, ∃ t, exec (.addI x) s = .next t ∧
    t.i.toNat = (s.i.toNat + (getV s x).toNat) % 4096 ∧
    (getV t 15).toNat = (if s.i.toNat + (getV s x).toNat > 0xFFF then 1 else 0) ∧
    t.pc = s.pc + 2 ∧ RegsSameBut [15] s t ∧ OnlyChanges [.index, .regs, .pc] s t

/-- R142, D25, `LD F, Vx`: I is Vx * 5, the register value not reduced; never above 0x4FB. -/
def Obligations.FontAddressIsFiveTimes : Prop :=
  ∀ x s, ∃ t, exec (.ldF x) s = .next t ∧ t.i.toNat = (getV s x).toNat * 5 ∧ t.i.toNat ≤ 0x4FB ∧
    t.pc = s.pc + 2 ∧ OnlyChanges [.index, .pc] s t

/-- R143, D1, `LD B, Vx`: within memory the three digits at I, I + 1, I + 2, every other byte as before, I unchanged; otherwise
OutOfBoundsAddress(0x1000). -/
def Obligations.BcdStoresThreeDigits : Prop :=
  ∀ x s,
    (s.i.toNat + 2 ≤ 0xFFF → ∃ t, exec (.ldB x) s = .next t ∧
      (t.mem.read (effAddr s 0)).toNat = (getV s x).toNat / 100 ∧
      (t.mem.read (effAddr s 1)).toNat = (getV s x).toNat / 10 % 10 ∧
      (t.mem.read (effAddr s 2)).toNat = (getV s x).toNat % 10 ∧
      (∀ a, a ∉ [effAddr s 0, effAddr s 1, effAddr s 2] → t.mem.read a = s.mem.read a) ∧
      t.pc = s.pc + 2 ∧ OnlyChanges [.mem, .pc] s t) ∧
    (0xFFF < s.i.toNat + 2 →
      exec (.ldB x) s = .fault (.outOfBoundsAddress 0x1000 s.pc (some (encode (.ldB x)))))

/-- R144, D1, D2, `LD [I], Vx`: within memory register k at I + k for k up to x, every other byte as before, I becomes I + x + 1
modulo 4096; otherwise OutOfBoundsAddress(0x1000). -/
def Obligations.StoreBlockCopiesRegisters : Prop :=
  ∀ x s,
    (s.i.toNat + x.val ≤ 0xFFF → ∃ t, exec (.storeRegs x) s = .next t ∧
      (∀ k : Reg, k ≤ x → t.mem.read (effAddr s k.val) = getV s k) ∧
      (∀ a, (∀ k : Reg, k ≤ x → a ≠ effAddr s k.val) → t.mem.read a = s.mem.read a) ∧
      t.i.toNat = (s.i.toNat + x.val + 1) % 4096 ∧ t.pc = s.pc + 2 ∧
      OnlyChanges [.mem, .index, .pc] s t) ∧
    (0xFFF < s.i.toNat + x.val →
      exec (.storeRegs x) s = .fault (.outOfBoundsAddress 0x1000 s.pc (some (encode (.storeRegs x)))))

/-- R145, D1, D2, `LD Vx, [I]`: within memory register k is the byte at I + k for k up to x, registers above x unchanged, I becomes
I + x + 1 modulo 4096; otherwise OutOfBoundsAddress(0x1000). -/
def Obligations.LoadBlockCopiesMemory : Prop :=
  ∀ x s,
    (s.i.toNat + x.val ≤ 0xFFF → ∃ t, exec (.loadRegs x) s = .next t ∧
      (∀ k : Reg, k ≤ x → getV t k = s.mem.read (effAddr s k.val)) ∧
      (∀ k : Reg, x < k → getV t k = getV s k) ∧
      t.i.toNat = (s.i.toNat + x.val + 1) % 4096 ∧ t.pc = s.pc + 2 ∧
      OnlyChanges [.regs, .index, .pc] s t) ∧
    (0xFFF < s.i.toNat + x.val →
      exec (.loadRegs x) s = .fault (.outOfBoundsAddress 0x1000 s.pc (some (encode (.loadRegs x)))))

/-- R144 with R145: loading the block back from where it was stored gives the stored registers. -/
def Obligations.LoadAfterStoreRestoresRegisters : Prop :=
  ∀ x s t t', exec (.storeRegs x) s = .next t → t'.mem = t.mem → t'.i = s.i →
    ∃ r, exec (.loadRegs x) t' = .next r ∧ ∀ k : Reg, k ≤ x → getV r k = getV s k

/-- R59: what `LD B, Vx` and `LD [I], Vx` store is seen by every later fetch, starting with the very next Step, whether the
fetched word lies in the stored bytes whole, by one byte or not at all; no fence, no cache. `t'` is any state with the memory
the store left, `t` itself among them. -/
def Obligations.StoreIsSeenByTheNextFetch : Prop :=
  ∀ x i bs s t, (i = .ldB x ∧ bs = digits (getV s x)) ∨ (i = .storeRegs x ∧ bs = blockValues s x) →
    exec i s = .next t → ∀ t' : State, t'.mem = t.mem → t'.pc.toNat ≤ 0xFFE → ∀ j,
      decodeWord (wordOfBytes (byteAfterStore s bs t'.pc.toNat) (byteAfterStore s bs (t'.pc.toNat + 1))) = .ok j →
      step t' = exec j t'

/-! ## Display -/

/-- R160, `CLS`, canonically 00E0: all cells 0, dirty 1, pc + 2, nothing else, VF included. -/
def Obligations.ClearScreenBlanks : Prop :=
  decodeWord 0x00E0 = .ok (.cls 0x0E) ∧ ∀ u s, ∃ t, exec (.cls u) s = .next t ∧ (∀ cx cy, pixel t.fb cx cy = false) ∧ t.dirty = true ∧
    t.pc = s.pc + 2 ∧ OnlyChanges [.screen, .dirty, .pc] s t

/-- R161, R162, D13, D24, `DRW Vx, Vy, n` in closed form: with the sprite inside memory, every cell is the old cell XOR whether
a 1 bit of the sprite lands on it with wraparound; VF is 1 exactly when a cell went from 1 to 0; dirty is 1. -/
def Obligations.DrawXorsTheSprite : Prop :=
  ∀ x y (n : BitVec 4) s, n = 0 ∨ s.i.toNat + n.toNat - 1 ≤ 0xFFF →
    ∃ t, exec (.drw x y n) s = .next t ∧
      (∀ (cx : Fin 64) (cy : Fin 32), pixel t.fb cx cy = true ↔
        (pixel s.fb cx cy = true ↔
          ¬SpriteCovers s (getV s x).toNat (getV s y).toNat n.toNat cx.val cy.val)) ∧
      ((∃ cx cy, pixel s.fb cx cy = true ∧ pixel t.fb cx cy = false) → getV t 15 = 1) ∧
      ((¬∃ cx cy, pixel s.fb cx cy = true ∧ pixel t.fb cx cy = false) → getV t 15 = 0) ∧
      t.dirty = true ∧ t.pc = s.pc + 2 ∧ RegsSameBut [15] s t ∧
      OnlyChanges [.screen, .regs, .dirty, .pc] s t

/-- R161, corner case: drawing the same sprite twice at the same place restores the framebuffer, and the second draw reports
VF = 1 exactly when a 1 bit of the sprite meets a cell that the first draw left at 1. -/
def Obligations.DrawTwiceRestoresTheScreen : Prop :=
  ∀ x y n s t u, x ≠ 15 → y ≠ 15 → exec (.drw x y n) s = .next t → exec (.drw x y n) t = .next u →
    (∀ cx cy, pixel u.fb cx cy = pixel s.fb cx cy) ∧
    (getV u 15 = 1 ↔ ∃ (cx : Fin 64) (cy : Fin 32), pixel t.fb cx cy = true ∧
      SpriteCovers s (getV s x).toNat (getV s y).toNat n.toNat cx.val cy.val)

/-- R26, R220, D14: the host's flat view has 2048 cells, cell cx * 32 + cy being FB[cx][cy]. -/
def Obligations.FlatViewIsColumnMajor : Prop :=
  ∀ fb : Screen, (flatCells fb).length = 2048 ∧
    ∀ (cx : Fin 64) (cy : Fin 32), (flatCells fb)[cx.val * 32 + cy.val]? = some (pixel fb cx cy)

/-! ## Keypad and timers -/

/-- R170, R171, D11: with Vx at most 15 the skips on keys go by the key's present level. -/
def Obligations.SkipsOnKeyLevel : Prop :=
  ∀ x u s (k : Fin 16), (getV s x).toNat = k.val →
    (∃ t, exec (.skp x u) s = .next t ∧ OnlyChanges [.pc] s t ∧
      (keyDown s k = true → t.pc = s.pc + 4) ∧ (keyDown s k = false → t.pc = s.pc + 2)) ∧
    (∃ t, exec (.sknp x u) s = .next t ∧ OnlyChanges [.pc] s t ∧
      (keyDown s k = false → t.pc = s.pc + 4) ∧ (keyDown s k = true → t.pc = s.pc + 2))

/-- R172, D12, `LD Vx, K`: with no key pressed the instruction succeeds and changes nothing; otherwise Vx is the least pressed
index. -/
def Obligations.AwaitKeyWaitsOrStores : Prop :=
  ∀ x s,
    ((∀ k, keyDown s k = false) → exec (.ldVxK x) s = .next s) ∧
    (∀ k, keyDown s k = true → (∀ j, j < k → keyDown s j = false) →
      ∃ t, exec (.ldVxK x) s = .next t ∧ (getV t x).toNat = k.val ∧ t.pc = s.pc + 2 ∧
        RegsSameBut [x] s t ∧ OnlyChanges [.regs, .pc] s t)

/-- R173, R174, R175: the three moves between a register and a timer; beep untouched; DT and ST then count down at the end of
the Tick. -/
def Obligations.TimerMovesCopy : Prop :=
  ∀ x s,
    (∃ t, exec (.ldVxDt x) s = .next t ∧ getV t x = s.dt ∧ t.pc = s.pc + 2 ∧ RegsSameBut [x] s t ∧
      OnlyChanges [.regs, .pc] s t) ∧
    (∃ t, exec (.ldDtVx x) s = .next t ∧ t.dt = getV s x ∧ t.pc = s.pc + 2 ∧ OnlyChanges [.dt, .pc] s t ∧
      (tickEnd t).dt.toNat = (getV s x).toNat - 1) ∧
    (∃ t, exec (.ldStVx x) s = .next t ∧ t.st = getV s x ∧ t.pc = s.pc + 2 ∧ OnlyChanges [.st, .pc] s t ∧
      (tickEnd t).st.toNat = (getV s x).toNat - 1 ∧
      (s.beep = false → (getV s x = 1 → (tickEnd t).st = 0 ∧ (tickEnd t).beep = true) ∧
        (getV s x = 0 → (tickEnd t).beep = false)))

/-! ## Tick, Reset, Load, SetKeys -/

/-- R214, R215, R216: a Tick clears dirty and beep, runs c Steps, sets beep exactly when ST is then 1, and counts each timer
down by 1 with floor 0; it answers ok when no Step failed. When one failed it answers the first fault, the tick-end actions
still done: that is the spec's choice (R217, D17; log entry 5). -/
def Obligations.TickProcedure : Prop :=
  ∀ (c k : Nat) (s u : State), Host.Core.run core k { s with dirty := false, beep := false } = .next u →
    (k = c ∨ (k < c ∧ ∃ f, step u = .fault f)) →
    ∃ t r, tick c s = (t, r) ∧
      t.dt.toNat = u.dt.toNat - 1 ∧ t.st.toNat = u.st.toNat - 1 ∧ (t.beep = true ↔ u.st = 1) ∧
      OnlyChanges [.dt, .st, .beep] u t ∧
      (k = c → r = .ok) ∧ (∀ f, k < c → step u = .fault f → r = .fault f)

/-- R215: a Tick first clears dirty and beep; so after it dirty is 1 exactly when at least one CLS or DRW executed during it,
and beep is 1 exactly when ST is 1 after its Steps (R216). That this holds of a failed Tick too is the spec's choice (R217, D17;
log entry 5). -/
def Obligations.TickFlagsTellOfThisTick : Prop :=
  ∀ (c : Nat) (s : State),
    ((tick c s).1.beep = true ↔ (tickSteps c (tickStart s) .ok).1.st = 1) ∧
    ((tick c s).1.dirty = true ↔ ∃ (k : Nat) (u t : State) (i : Instr), k < c ∧
      Host.Core.run core k { s with dirty := false, beep := false } = .next u ∧
      decodeWord (wordAt u.mem u.pc.toNat) = .ok i ∧ step u = .next t ∧
      ((∃ a, i = .cls a) ∨ ∃ x y n, i = .drw x y n))

/-- R241, R32, D21 (and D23 for the font): Reset gives every part its reset value whatever came before, writes the font at
0x000 to 0x04F and leaves the rest of memory as it was. The state after reset of the model is what Reset gives
(its open values as log entries 1, 2 and 3 choose them). -/
def Obligations.ResetRestoresEverythingButMemory : Prop :=
  ∀ s, ∃ t, applyOp .reset s = (t, .ok) ∧
    (∀ r, getV t r = 0) ∧ t.i = 0 ∧ t.pc = 0x200 ∧ t.stack = [] ∧ t.dt = 0 ∧ t.st = 0 ∧
    (∀ k, keyDown t k = false) ∧ (∀ cx cy, pixel t.fb cx cy = false) ∧ t.dirty = false ∧ t.beep = false ∧
    (∀ a, a < 80 → fontBytes[a]? = some (t.mem.read a)) ∧ (∀ a, 80 ≤ a → t.mem.read a = s.mem.read a) ∧
    (s = State.reset → t = s)

/-- R242, R206, D31: Load copies the bytes to base and up and changes nothing else; with no data or past the end of memory it
fails and changes nothing. -/
def Obligations.LoadCopiesOrFails : Prop :=
  ∀ (bytes : List Byte) (base : Nat) s,
    (bytes = [] ∨ 4096 < base + bytes.length → applyOp (.load bytes base) s = (s, .loadError)) ∧
    (bytes ≠ [] → base + bytes.length ≤ 4096 → ∃ t, applyOp (.load bytes base) s = (t, .ok) ∧
      (∀ k, k < bytes.length → bytes[k]? = some (t.mem.read (base + k))) ∧
      (∀ a, a < base ∨ base + bytes.length ≤ a → t.mem.read a = s.mem.read a) ∧
      OnlyChanges [.mem] s t)

/-- R219, R218: the host overwrites the whole key vector or one key, and nothing else. -/
def Obligations.SetKeysWritesOnlyKeys : Prop :=
  ∀ ks k b s,
    (applyOp (.setKeys ks) s).2 = .ok ∧ (applyOp (.setKey k b) s).2 = .ok ∧
    (∀ j : Fin 16, keyDown (applyOp (.setKeys ks) s).1 j = ks[j]) ∧
    (∀ j, keyDown (applyOp (.setKey k b) s).1 j = if j = k then b else keyDown s j) ∧
    OnlyChanges [.keys] s (applyOp (.setKeys ks) s).1 ∧ OnlyChanges [.keys] s (applyOp (.setKey k b) s).1

/-! ## The whole machine -/

/-- The invariant holds right after reset: memory in canonical form, I within 12 bits, pc at most 0x10FE, stack within its
depth. It holds for the values that log entries 1 and 2 choose. -/
def Obligations.InvariantHoldsAtReset : Prop := MachineInv State.reset

/-- Every Step keeps the invariant (R22, R23, R24, D2, D3; the canonical form is the model's own, log entry 1). -/
def Obligations.StepKeepsTheInvariant : Prop := ∀ s t, MachineInv s → step s = .next t → MachineInv t

/-- Every sequence of host operations keeps the invariant, Ticks of any length and Loads of any bytes among them (R5, R218).
The invariant is the model's own (log entries 1 and 2). -/
def Obligations.HostOperationsKeepTheInvariant : Prop := ∀ ops s, MachineInv s → MachineInv (runOps ops s)

/-- R244, D33: on a self-jump every Step succeeds and changes nothing, and every Tick succeeds and changes only DT, ST, dirty
and beep. -/
def Obligations.SelfJumpIsTheEnd : Prop :=
  ∀ s, s.pc.toNat ≤ 0xFFE → (wordAt s.mem s.pc.toNat).toNat = 0x1000 + s.pc.toNat →
    step s = .next s ∧
    ∀ c, (tick c s).2 = .ok ∧ OnlyChanges [.dt, .st, .dirty, .beep] s (tick c s).1

/-- R25, R27, R29, R33: no instruction reads ST, dirty or beep, and none but DRW reads the framebuffer. Run with other values
there, an instruction answers the same fault, or a next state in which every part it writes has the same value as before
(the framebuffer after CLS and DRW, dirty after both, ST after `LD ST, Vx`), every part that it does not write has the value
put there, and every other part is the same; so is the framebuffer, when it was kept. -/
def Obligations.NothingReadsSoundFlagsOrScreen : Prop :=
  ∀ i s (st : Byte) (d b : Bool) (fb : Screen), (fb = s.fb ∨ ∀ x y n, i ≠ .drw x y n) →
    (∀ f, exec i s = .fault f ↔ exec i { s with st := st, dirty := d, beep := b, fb := fb } = .fault f) ∧
    ∀ t, exec i s = .next t →
      ∃ t', exec i { s with st := st, dirty := d, beep := b, fb := fb } = .next t' ∧
        OnlyChanges [.st, .dirty, .beep, .screen] t t' ∧
        (∀ p ∈ writtenParts i, p.Same t t') ∧
        OnlyChanges (writtenParts i) { s with st := st, dirty := d, beep := b, fb := fb } t' ∧
        (fb = s.fb → Part.Same .screen t t')

/-- Two memories in canonical form that read alike at every address are the same data. The canonical form is the model's own
choice (log entry 1): the spec has the 4096 bytes and no list. -/
def Obligations.EqualReadsMeanEqualMemory : Prop :=
  ∀ m m' : Memory, m.wf = true → m'.wf = true → (∀ a, m.read a = m'.read a) → m = m'
end

