-- ==== Sys2Proof/Laws/Encoding.lean ====
section
/-!
SUPPORT. Fields and formats of an instruction word as numbers, and what each field of a packed word reads as.
-/

namespace Sys2Proof

/-! ## Fields as numbers -/

theorem fieldOp_toNat (w : Word) : (fieldOp w).toNat = w.toNat / 4096 := by
  simp only [fieldOp, BitVec.extractLsb'_toNat, Nat.shiftRight_eq_div_pow]; omega

theorem fieldX_val (w : Word) : (fieldX w).val = w.toNat / 256 % 16 := by
  simp only [fieldX, BitVec.val_toFin, BitVec.extractLsb'_toNat, Nat.shiftRight_eq_div_pow]

theorem fieldY_val (w : Word) : (fieldY w).val = w.toNat / 16 % 16 := by
  simp only [fieldY, BitVec.val_toFin, BitVec.extractLsb'_toNat, Nat.shiftRight_eq_div_pow]

theorem fieldN_toNat (w : Word) : (fieldN w).toNat = w.toNat % 16 := by
  simp only [fieldN, BitVec.extractLsb'_toNat, Nat.shiftRight_eq_div_pow]; omega

theorem fieldNN_toNat (w : Word) : (fieldNN w).toNat = w.toNat % 256 := by
  simp only [fieldNN, BitVec.extractLsb'_toNat, Nat.shiftRight_eq_div_pow]; omega

theorem fieldNNN_toNat (w : Word) : (fieldNNN w).toNat = w.toNat % 4096 := by
  simp only [fieldNNN, BitVec.extractLsb'_toNat, Nat.shiftRight_eq_div_pow]; omega

theorem fieldU8_toNat (w : Word) : (fieldU8 w).toNat = w.toNat / 16 % 256 := by
  simp only [fieldU8, BitVec.extractLsb'_toNat, Nat.shiftRight_eq_div_pow]

theorem fieldU4_toNat (w : Word) : (fieldU4 w).toNat = w.toNat / 16 % 16 := by
  simp only [fieldU4, BitVec.extractLsb'_toNat, Nat.shiftRight_eq_div_pow]

/-! ## Formats as numbers -/

theorem regBits_toNat (x : Reg) : (regBits x).toNat = x.val := rfl

/-- Bits side by side: the upper part counts in units of the lower part's size. -/
theorem append_toNat {m n : Nat} (a : BitVec m) (b : BitVec n) : (a ++ b).toNat = a.toNat * 2 ^ n + b.toNat := by
  rw [BitVec.toNat_append, ← Nat.shiftLeft_add_eq_or_of_lt b.isLt, Nat.shiftLeft_eq]

theorem packZ_toNat (u : BitVec 8) (n : BitVec 4) : (packZ u n).toNat = u.toNat * 16 + n.toNat := by
  have h : (packZ u n).toNat = ((0x0#4 ++ u) ++ n).toNat := rfl
  rw [h, append_toNat, append_toNat, BitVec.toNat_ofNat]; omega

theorem packNNN_toNat (op : BitVec 4) (nnn : BitVec 12) :
    (packNNN op nnn).toNat = op.toNat * 4096 + nnn.toNat := by
  have h : (packNNN op nnn).toNat = (op ++ nnn).toNat := rfl
  rw [h, append_toNat]; omega

theorem packXNN_toNat (op : BitVec 4) (x : Reg) (nn : Byte) :
    (packXNN op x nn).toNat = op.toNat * 4096 + x.val * 256 + nn.toNat := by
  have h : (packXNN op x nn).toNat = ((op ++ regBits x) ++ nn).toNat := rfl
  rw [h, append_toNat, append_toNat, regBits_toNat]; omega

theorem packXYN_toNat (op : BitVec 4) (x y : Reg) (n : BitVec 4) :
    (packXYN op x y n).toNat = op.toNat * 4096 + x.val * 256 + y.val * 16 + n.toNat := by
  have h : (packXYN op x y n).toNat = (((op ++ regBits x) ++ regBits y) ++ n).toNat := rfl
  rw [h, append_toNat, append_toNat, append_toNat, regBits_toNat, regBits_toNat]; omega

theorem packXUN_toNat (op : BitVec 4) (x : Reg) (u n : BitVec 4) :
    (packXUN op x u n).toNat = op.toNat * 4096 + x.val * 256 + u.toNat * 16 + n.toNat := by
  have h : (packXUN op x u n).toNat = (((op ++ regBits x) ++ u) ++ n).toNat := rfl
  rw [h, append_toNat, append_toNat, append_toNat, regBits_toNat]; omega

/-! ## Fields of a packed word -/

@[simp] theorem fieldOp_packZ (u : BitVec 8) (n : BitVec 4) : fieldOp (packZ u n) = 0x0#4 := by
  apply BitVec.eq_of_toNat_eq
  rw [fieldOp_toNat, packZ_toNat, BitVec.toNat_ofNat]; omega

@[simp] theorem fieldN_packZ (u : BitVec 8) (n : BitVec 4) : fieldN (packZ u n) = n := by
  apply BitVec.eq_of_toNat_eq
  rw [fieldN_toNat, packZ_toNat]; omega

@[simp] theorem fieldU8_packZ (u : BitVec 8) (n : BitVec 4) : fieldU8 (packZ u n) = u := by
  apply BitVec.eq_of_toNat_eq
  rw [fieldU8_toNat, packZ_toNat]; omega

@[simp] theorem fieldOp_packNNN (op : BitVec 4) (nnn : BitVec 12) : fieldOp (packNNN op nnn) = op := by
  apply BitVec.eq_of_toNat_eq
  rw [fieldOp_toNat, packNNN_toNat]; omega

@[simp] theorem fieldNNN_packNNN (op : BitVec 4) (nnn : BitVec 12) : fieldNNN (packNNN op nnn) = nnn := by
  apply BitVec.eq_of_toNat_eq
  rw [fieldNNN_toNat, packNNN_toNat]; omega

theorem fieldN_packNNN (op : BitVec 4) (nnn : BitVec 12) : fieldN (packNNN op nnn) = nnn.extractLsb' 0 4 := by
  apply BitVec.eq_of_toNat_eq
  rw [fieldN_toNat, packNNN_toNat, BitVec.extractLsb'_toNat, Nat.shiftRight_zero]; omega

@[simp] theorem fieldOp_packXNN (op : BitVec 4) (x : Reg) (nn : Byte) : fieldOp (packXNN op x nn) = op := by
  apply BitVec.eq_of_toNat_eq
  rw [fieldOp_toNat, packXNN_toNat]; omega

@[simp] theorem fieldX_packXNN (op : BitVec 4) (x : Reg) (nn : Byte) : fieldX (packXNN op x nn) = x := by
  apply Fin.ext
  rw [fieldX_val, packXNN_toNat]; omega

@[simp] theorem fieldNN_packXNN (op : BitVec 4) (x : Reg) (nn : Byte) : fieldNN (packXNN op x nn) = nn := by
  apply BitVec.eq_of_toNat_eq
  rw [fieldNN_toNat, packXNN_toNat]; omega

@[simp] theorem fieldOp_packXYN (op : BitVec 4) (x y : Reg) (n : BitVec 4) :
    fieldOp (packXYN op x y n) = op := by
  apply BitVec.eq_of_toNat_eq
  rw [fieldOp_toNat, packXYN_toNat]; omega

@[simp] theorem fieldX_packXYN (op : BitVec 4) (x y : Reg) (n : BitVec 4) :
    fieldX (packXYN op x y n) = x := by
  apply Fin.ext
  rw [fieldX_val, packXYN_toNat]; omega

@[simp] theorem fieldY_packXYN (op : BitVec 4) (x y : Reg) (n : BitVec 4) :
    fieldY (packXYN op x y n) = y := by
  apply Fin.ext
  rw [fieldY_val, packXYN_toNat]; omega

@[simp] theorem fieldN_packXYN (op : BitVec 4) (x y : Reg) (n : BitVec 4) :
    fieldN (packXYN op x y n) = n := by
  apply BitVec.eq_of_toNat_eq
  rw [fieldN_toNat, packXYN_toNat]; omega

@[simp] theorem fieldOp_packXUN (op : BitVec 4) (x : Reg) (u n : BitVec 4) :
    fieldOp (packXUN op x u n) = op := by
  apply BitVec.eq_of_toNat_eq
  rw [fieldOp_toNat, packXUN_toNat]; omega

@[simp] theorem fieldX_packXUN (op : BitVec 4) (x : Reg) (u n : BitVec 4) :
    fieldX (packXUN op x u n) = x := by
  apply Fin.ext
  rw [fieldX_val, packXUN_toNat]; omega

@[simp] theorem fieldU4_packXUN (op : BitVec 4) (x : Reg) (u n : BitVec 4) :
    fieldU4 (packXUN op x u n) = u := by
  apply BitVec.eq_of_toNat_eq
  rw [fieldU4_toNat, packXUN_toNat]; omega

@[simp] theorem fieldN_packXUN (op : BitVec 4) (x : Reg) (u n : BitVec 4) :
    fieldN (packXUN op x u n) = n := by
  apply BitVec.eq_of_toNat_eq
  rw [fieldN_toNat, packXUN_toNat]; omega

/-- A word is the two bytes it lies in memory as. -/
theorem wordOfBytes_toNat (hi lo : Byte) : (wordOfBytes hi lo).toNat = hi.toNat * 256 + lo.toNat := by
  have h : (wordOfBytes hi lo).toNat = (hi ++ lo).toNat := rfl
  rw [h, append_toNat]; omega

/-- The two bytes of a word make the word again. -/
theorem wordOfBytes_bytesOfWord (w : Word) : wordOfBytes (w.extractLsb' 8 8) (w.extractLsb' 0 8) = w := by
  apply BitVec.eq_of_toNat_eq
  rw [wordOfBytes_toNat]
  simp only [BitVec.extractLsb'_toNat, Nat.shiftRight_eq_div_pow]; omega

theorem decode_bytesOfWord (w : Word) : decode (bytesOfWord w) = (decodeWord w).map fun i => (i, []) := by
  simp only [decode, bytesOfWord, wordOfBytes_bytesOfWord]

end Sys2Proof
end

