-- ==== Sys2Proof/Laws/State.lean ====
section
/-!
SUPPORT. What each update of the state does to each field: one lemma per field per update, true by rfl.
-/

namespace Sys2Proof.Machine

variable (s : State)

/-! ## `setV` -/

@[simp] theorem setV_v (x : Reg) (b : Byte) : (setV s x b).v = s.v.set x b := rfl
@[simp] theorem setV_i (x : Reg) (b : Byte) : (setV s x b).i = s.i := rfl
@[simp] theorem setV_pc (x : Reg) (b : Byte) : (setV s x b).pc = s.pc := rfl
@[simp] theorem setV_stack (x : Reg) (b : Byte) : (setV s x b).stack = s.stack := rfl
@[simp] theorem setV_dt (x : Reg) (b : Byte) : (setV s x b).dt = s.dt := rfl
@[simp] theorem setV_st (x : Reg) (b : Byte) : (setV s x b).st = s.st := rfl
@[simp] theorem setV_fb (x : Reg) (b : Byte) : (setV s x b).fb = s.fb := rfl
@[simp] theorem setV_dirty (x : Reg) (b : Byte) : (setV s x b).dirty = s.dirty := rfl
@[simp] theorem setV_keys (x : Reg) (b : Byte) : (setV s x b).keys = s.keys := rfl
@[simp] theorem setV_beep (x : Reg) (b : Byte) : (setV s x b).beep = s.beep := rfl
@[simp] theorem setV_mem (x : Reg) (b : Byte) : (setV s x b).mem = s.mem := rfl
@[simp] theorem setV_stackDepth (x : Reg) (b : Byte) : (setV s x b).stackDepth = s.stackDepth := rfl
@[simp] theorem setV_draws (x : Reg) (b : Byte) : (setV s x b).draws = s.draws := rfl

/-! ## `setI` -/

@[simp] theorem setI_v (a : Word) : (setI s a).v = s.v := rfl
@[simp] theorem setI_i (a : Word) : (setI s a).i = a := rfl
@[simp] theorem setI_pc (a : Word) : (setI s a).pc = s.pc := rfl
@[simp] theorem setI_stack (a : Word) : (setI s a).stack = s.stack := rfl
@[simp] theorem setI_dt (a : Word) : (setI s a).dt = s.dt := rfl
@[simp] theorem setI_st (a : Word) : (setI s a).st = s.st := rfl
@[simp] theorem setI_fb (a : Word) : (setI s a).fb = s.fb := rfl
@[simp] theorem setI_dirty (a : Word) : (setI s a).dirty = s.dirty := rfl
@[simp] theorem setI_keys (a : Word) : (setI s a).keys = s.keys := rfl
@[simp] theorem setI_beep (a : Word) : (setI s a).beep = s.beep := rfl
@[simp] theorem setI_mem (a : Word) : (setI s a).mem = s.mem := rfl
@[simp] theorem setI_stackDepth (a : Word) : (setI s a).stackDepth = s.stackDepth := rfl
@[simp] theorem setI_draws (a : Word) : (setI s a).draws = s.draws := rfl

/-! ## `goTo` -/

@[simp] theorem goTo_v (a : Word) : (goTo s a).v = s.v := rfl
@[simp] theorem goTo_i (a : Word) : (goTo s a).i = s.i := rfl
@[simp] theorem goTo_pc (a : Word) : (goTo s a).pc = a := rfl
@[simp] theorem goTo_stack (a : Word) : (goTo s a).stack = s.stack := rfl
@[simp] theorem goTo_dt (a : Word) : (goTo s a).dt = s.dt := rfl
@[simp] theorem goTo_st (a : Word) : (goTo s a).st = s.st := rfl
@[simp] theorem goTo_fb (a : Word) : (goTo s a).fb = s.fb := rfl
@[simp] theorem goTo_dirty (a : Word) : (goTo s a).dirty = s.dirty := rfl
@[simp] theorem goTo_keys (a : Word) : (goTo s a).keys = s.keys := rfl
@[simp] theorem goTo_beep (a : Word) : (goTo s a).beep = s.beep := rfl
@[simp] theorem goTo_mem (a : Word) : (goTo s a).mem = s.mem := rfl
@[simp] theorem goTo_stackDepth (a : Word) : (goTo s a).stackDepth = s.stackDepth := rfl
@[simp] theorem goTo_draws (a : Word) : (goTo s a).draws = s.draws := rfl

/-! ## `setDT` -/

@[simp] theorem setDT_v (b : Byte) : (setDT s b).v = s.v := rfl
@[simp] theorem setDT_i (b : Byte) : (setDT s b).i = s.i := rfl
@[simp] theorem setDT_pc (b : Byte) : (setDT s b).pc = s.pc := rfl
@[simp] theorem setDT_stack (b : Byte) : (setDT s b).stack = s.stack := rfl
@[simp] theorem setDT_dt (b : Byte) : (setDT s b).dt = b := rfl
@[simp] theorem setDT_st (b : Byte) : (setDT s b).st = s.st := rfl
@[simp] theorem setDT_fb (b : Byte) : (setDT s b).fb = s.fb := rfl
@[simp] theorem setDT_dirty (b : Byte) : (setDT s b).dirty = s.dirty := rfl
@[simp] theorem setDT_keys (b : Byte) : (setDT s b).keys = s.keys := rfl
@[simp] theorem setDT_beep (b : Byte) : (setDT s b).beep = s.beep := rfl
@[simp] theorem setDT_mem (b : Byte) : (setDT s b).mem = s.mem := rfl
@[simp] theorem setDT_stackDepth (b : Byte) : (setDT s b).stackDepth = s.stackDepth := rfl
@[simp] theorem setDT_draws (b : Byte) : (setDT s b).draws = s.draws := rfl

/-! ## `setST` -/

@[simp] theorem setST_v (b : Byte) : (setST s b).v = s.v := rfl
@[simp] theorem setST_i (b : Byte) : (setST s b).i = s.i := rfl
@[simp] theorem setST_pc (b : Byte) : (setST s b).pc = s.pc := rfl
@[simp] theorem setST_stack (b : Byte) : (setST s b).stack = s.stack := rfl
@[simp] theorem setST_dt (b : Byte) : (setST s b).dt = s.dt := rfl
@[simp] theorem setST_st (b : Byte) : (setST s b).st = b := rfl
@[simp] theorem setST_fb (b : Byte) : (setST s b).fb = s.fb := rfl
@[simp] theorem setST_dirty (b : Byte) : (setST s b).dirty = s.dirty := rfl
@[simp] theorem setST_keys (b : Byte) : (setST s b).keys = s.keys := rfl
@[simp] theorem setST_beep (b : Byte) : (setST s b).beep = s.beep := rfl
@[simp] theorem setST_mem (b : Byte) : (setST s b).mem = s.mem := rfl
@[simp] theorem setST_stackDepth (b : Byte) : (setST s b).stackDepth = s.stackDepth := rfl
@[simp] theorem setST_draws (b : Byte) : (setST s b).draws = s.draws := rfl

/-! ## `setMem` -/

@[simp] theorem setMem_v (m : Memory) : (setMem s m).v = s.v := rfl
@[simp] theorem setMem_i (m : Memory) : (setMem s m).i = s.i := rfl
@[simp] theorem setMem_pc (m : Memory) : (setMem s m).pc = s.pc := rfl
@[simp] theorem setMem_stack (m : Memory) : (setMem s m).stack = s.stack := rfl
@[simp] theorem setMem_dt (m : Memory) : (setMem s m).dt = s.dt := rfl
@[simp] theorem setMem_st (m : Memory) : (setMem s m).st = s.st := rfl
@[simp] theorem setMem_fb (m : Memory) : (setMem s m).fb = s.fb := rfl
@[simp] theorem setMem_dirty (m : Memory) : (setMem s m).dirty = s.dirty := rfl
@[simp] theorem setMem_keys (m : Memory) : (setMem s m).keys = s.keys := rfl
@[simp] theorem setMem_beep (m : Memory) : (setMem s m).beep = s.beep := rfl
@[simp] theorem setMem_mem (m : Memory) : (setMem s m).mem = m := rfl
@[simp] theorem setMem_stackDepth (m : Memory) : (setMem s m).stackDepth = s.stackDepth := rfl
@[simp] theorem setMem_draws (m : Memory) : (setMem s m).draws = s.draws := rfl

/-! ## `push` -/

@[simp] theorem push_v (a : Word) : (push s a).v = s.v := rfl
@[simp] theorem push_i (a : Word) : (push s a).i = s.i := rfl
@[simp] theorem push_pc (a : Word) : (push s a).pc = s.pc := rfl
@[simp] theorem push_stack (a : Word) : (push s a).stack = s.stack ++ [a] := rfl
@[simp] theorem push_dt (a : Word) : (push s a).dt = s.dt := rfl
@[simp] theorem push_st (a : Word) : (push s a).st = s.st := rfl
@[simp] theorem push_fb (a : Word) : (push s a).fb = s.fb := rfl
@[simp] theorem push_dirty (a : Word) : (push s a).dirty = s.dirty := rfl
@[simp] theorem push_keys (a : Word) : (push s a).keys = s.keys := rfl
@[simp] theorem push_beep (a : Word) : (push s a).beep = s.beep := rfl
@[simp] theorem push_mem (a : Word) : (push s a).mem = s.mem := rfl
@[simp] theorem push_stackDepth (a : Word) : (push s a).stackDepth = s.stackDepth := rfl
@[simp] theorem push_draws (a : Word) : (push s a).draws = s.draws := rfl

/-! ## `dropTop` -/

@[simp] theorem dropTop_v : (dropTop s).v = s.v := rfl
@[simp] theorem dropTop_i : (dropTop s).i = s.i := rfl
@[simp] theorem dropTop_pc : (dropTop s).pc = s.pc := rfl
@[simp] theorem dropTop_stack : (dropTop s).stack = s.stack.dropLast := rfl
@[simp] theorem dropTop_dt : (dropTop s).dt = s.dt := rfl
@[simp] theorem dropTop_st : (dropTop s).st = s.st := rfl
@[simp] theorem dropTop_fb : (dropTop s).fb = s.fb := rfl
@[simp] theorem dropTop_dirty : (dropTop s).dirty = s.dirty := rfl
@[simp] theorem dropTop_keys : (dropTop s).keys = s.keys := rfl
@[simp] theorem dropTop_beep : (dropTop s).beep = s.beep := rfl
@[simp] theorem dropTop_mem : (dropTop s).mem = s.mem := rfl
@[simp] theorem dropTop_stackDepth : (dropTop s).stackDepth = s.stackDepth := rfl
@[simp] theorem dropTop_draws : (dropTop s).draws = s.draws := rfl

/-! ## `countDraw` -/

@[simp] theorem countDraw_v : (countDraw s).v = s.v := rfl
@[simp] theorem countDraw_i : (countDraw s).i = s.i := rfl
@[simp] theorem countDraw_pc : (countDraw s).pc = s.pc := rfl
@[simp] theorem countDraw_stack : (countDraw s).stack = s.stack := rfl
@[simp] theorem countDraw_dt : (countDraw s).dt = s.dt := rfl
@[simp] theorem countDraw_st : (countDraw s).st = s.st := rfl
@[simp] theorem countDraw_fb : (countDraw s).fb = s.fb := rfl
@[simp] theorem countDraw_dirty : (countDraw s).dirty = s.dirty := rfl
@[simp] theorem countDraw_keys : (countDraw s).keys = s.keys := rfl
@[simp] theorem countDraw_beep : (countDraw s).beep = s.beep := rfl
@[simp] theorem countDraw_mem : (countDraw s).mem = s.mem := rfl
@[simp] theorem countDraw_stackDepth : (countDraw s).stackDepth = s.stackDepth := rfl
@[simp] theorem countDraw_draws : (countDraw s).draws = s.draws + 1 := rfl

/-! ## `showScreen` -/

@[simp] theorem showScreen_v (f : Screen) : (showScreen s f).v = s.v := rfl
@[simp] theorem showScreen_i (f : Screen) : (showScreen s f).i = s.i := rfl
@[simp] theorem showScreen_pc (f : Screen) : (showScreen s f).pc = s.pc := rfl
@[simp] theorem showScreen_stack (f : Screen) : (showScreen s f).stack = s.stack := rfl
@[simp] theorem showScreen_dt (f : Screen) : (showScreen s f).dt = s.dt := rfl
@[simp] theorem showScreen_st (f : Screen) : (showScreen s f).st = s.st := rfl
@[simp] theorem showScreen_fb (f : Screen) : (showScreen s f).fb = f := rfl
@[simp] theorem showScreen_dirty (f : Screen) : (showScreen s f).dirty = true := rfl
@[simp] theorem showScreen_keys (f : Screen) : (showScreen s f).keys = s.keys := rfl
@[simp] theorem showScreen_beep (f : Screen) : (showScreen s f).beep = s.beep := rfl
@[simp] theorem showScreen_mem (f : Screen) : (showScreen s f).mem = s.mem := rfl
@[simp] theorem showScreen_stackDepth (f : Screen) : (showScreen s f).stackDepth = s.stackDepth := rfl
@[simp] theorem showScreen_draws (f : Screen) : (showScreen s f).draws = s.draws := rfl

/-! ## `advance` -/

@[simp] theorem advance_v : (advance s).v = s.v := rfl
@[simp] theorem advance_i : (advance s).i = s.i := rfl
@[simp] theorem advance_pc : (advance s).pc = s.pc + 2 := rfl
@[simp] theorem advance_stack : (advance s).stack = s.stack := rfl
@[simp] theorem advance_dt : (advance s).dt = s.dt := rfl
@[simp] theorem advance_st : (advance s).st = s.st := rfl
@[simp] theorem advance_fb : (advance s).fb = s.fb := rfl
@[simp] theorem advance_dirty : (advance s).dirty = s.dirty := rfl
@[simp] theorem advance_keys : (advance s).keys = s.keys := rfl
@[simp] theorem advance_beep : (advance s).beep = s.beep := rfl
@[simp] theorem advance_mem : (advance s).mem = s.mem := rfl
@[simp] theorem advance_stackDepth : (advance s).stackDepth = s.stackDepth := rfl
@[simp] theorem advance_draws : (advance s).draws = s.draws := rfl

/-! ## `setFlag` -/

@[simp] theorem setFlag_v (c : Bool) : (setFlag s c).v = s.v.set vf (flagByte c) := rfl
@[simp] theorem setFlag_i (c : Bool) : (setFlag s c).i = s.i := rfl
@[simp] theorem setFlag_pc (c : Bool) : (setFlag s c).pc = s.pc := rfl
@[simp] theorem setFlag_stack (c : Bool) : (setFlag s c).stack = s.stack := rfl
@[simp] theorem setFlag_dt (c : Bool) : (setFlag s c).dt = s.dt := rfl
@[simp] theorem setFlag_st (c : Bool) : (setFlag s c).st = s.st := rfl
@[simp] theorem setFlag_fb (c : Bool) : (setFlag s c).fb = s.fb := rfl
@[simp] theorem setFlag_dirty (c : Bool) : (setFlag s c).dirty = s.dirty := rfl
@[simp] theorem setFlag_keys (c : Bool) : (setFlag s c).keys = s.keys := rfl
@[simp] theorem setFlag_beep (c : Bool) : (setFlag s c).beep = s.beep := rfl
@[simp] theorem setFlag_mem (c : Bool) : (setFlag s c).mem = s.mem := rfl
@[simp] theorem setFlag_stackDepth (c : Bool) : (setFlag s c).stackDepth = s.stackDepth := rfl
@[simp] theorem setFlag_draws (c : Bool) : (setFlag s c).draws = s.draws := rfl

/-! ## `bumpI` -/

@[simp] theorem bumpI_v (x : Reg) : (bumpI s x).v = s.v := rfl
@[simp] theorem bumpI_i (x : Reg) : (bumpI s x).i = mask12 (effAddr s (blockLength x)) := rfl
@[simp] theorem bumpI_pc (x : Reg) : (bumpI s x).pc = s.pc := rfl
@[simp] theorem bumpI_stack (x : Reg) : (bumpI s x).stack = s.stack := rfl
@[simp] theorem bumpI_dt (x : Reg) : (bumpI s x).dt = s.dt := rfl
@[simp] theorem bumpI_st (x : Reg) : (bumpI s x).st = s.st := rfl
@[simp] theorem bumpI_fb (x : Reg) : (bumpI s x).fb = s.fb := rfl
@[simp] theorem bumpI_dirty (x : Reg) : (bumpI s x).dirty = s.dirty := rfl
@[simp] theorem bumpI_keys (x : Reg) : (bumpI s x).keys = s.keys := rfl
@[simp] theorem bumpI_beep (x : Reg) : (bumpI s x).beep = s.beep := rfl
@[simp] theorem bumpI_mem (x : Reg) : (bumpI s x).mem = s.mem := rfl
@[simp] theorem bumpI_stackDepth (x : Reg) : (bumpI s x).stackDepth = s.stackDepth := rfl
@[simp] theorem bumpI_draws (x : Reg) : (bumpI s x).draws = s.draws := rfl

/-! ## `setKeys` -/

@[simp] theorem setKeys_v (ks : Vector Bool 16) : (setKeys ks s).v = s.v := rfl
@[simp] theorem setKeys_i (ks : Vector Bool 16) : (setKeys ks s).i = s.i := rfl
@[simp] theorem setKeys_pc (ks : Vector Bool 16) : (setKeys ks s).pc = s.pc := rfl
@[simp] theorem setKeys_stack (ks : Vector Bool 16) : (setKeys ks s).stack = s.stack := rfl
@[simp] theorem setKeys_dt (ks : Vector Bool 16) : (setKeys ks s).dt = s.dt := rfl
@[simp] theorem setKeys_st (ks : Vector Bool 16) : (setKeys ks s).st = s.st := rfl
@[simp] theorem setKeys_fb (ks : Vector Bool 16) : (setKeys ks s).fb = s.fb := rfl
@[simp] theorem setKeys_dirty (ks : Vector Bool 16) : (setKeys ks s).dirty = s.dirty := rfl
@[simp] theorem setKeys_keys (ks : Vector Bool 16) : (setKeys ks s).keys = ks := rfl
@[simp] theorem setKeys_beep (ks : Vector Bool 16) : (setKeys ks s).beep = s.beep := rfl
@[simp] theorem setKeys_mem (ks : Vector Bool 16) : (setKeys ks s).mem = s.mem := rfl
@[simp] theorem setKeys_stackDepth (ks : Vector Bool 16) : (setKeys ks s).stackDepth = s.stackDepth := rfl
@[simp] theorem setKeys_draws (ks : Vector Bool 16) : (setKeys ks s).draws = s.draws := rfl

/-! ## `tickStart` -/

@[simp] theorem tickStart_v : (tickStart s).v = s.v := rfl
@[simp] theorem tickStart_i : (tickStart s).i = s.i := rfl
@[simp] theorem tickStart_pc : (tickStart s).pc = s.pc := rfl
@[simp] theorem tickStart_stack : (tickStart s).stack = s.stack := rfl
@[simp] theorem tickStart_dt : (tickStart s).dt = s.dt := rfl
@[simp] theorem tickStart_st : (tickStart s).st = s.st := rfl
@[simp] theorem tickStart_fb : (tickStart s).fb = s.fb := rfl
@[simp] theorem tickStart_dirty : (tickStart s).dirty = false := rfl
@[simp] theorem tickStart_keys : (tickStart s).keys = s.keys := rfl
@[simp] theorem tickStart_beep : (tickStart s).beep = false := rfl
@[simp] theorem tickStart_mem : (tickStart s).mem = s.mem := rfl
@[simp] theorem tickStart_stackDepth : (tickStart s).stackDepth = s.stackDepth := rfl
@[simp] theorem tickStart_draws : (tickStart s).draws = s.draws := rfl

/-! ## `tickEnd` -/

@[simp] theorem tickEnd_v : (tickEnd s).v = s.v := rfl
@[simp] theorem tickEnd_i : (tickEnd s).i = s.i := rfl
@[simp] theorem tickEnd_pc : (tickEnd s).pc = s.pc := rfl
@[simp] theorem tickEnd_stack : (tickEnd s).stack = s.stack := rfl
@[simp] theorem tickEnd_dt : (tickEnd s).dt = countDown s.dt := rfl
@[simp] theorem tickEnd_st : (tickEnd s).st = countDown s.st := rfl
@[simp] theorem tickEnd_fb : (tickEnd s).fb = s.fb := rfl
@[simp] theorem tickEnd_dirty : (tickEnd s).dirty = s.dirty := rfl
@[simp] theorem tickEnd_keys : (tickEnd s).keys = s.keys := rfl
@[simp] theorem tickEnd_beep : (tickEnd s).beep = (s.beep || (s.st == 1)) := rfl
@[simp] theorem tickEnd_mem : (tickEnd s).mem = s.mem := rfl
@[simp] theorem tickEnd_stackDepth : (tickEnd s).stackDepth = s.stackDepth := rfl
@[simp] theorem tickEnd_draws : (tickEnd s).draws = s.draws := rfl

/-! ## `skipIf` -/

@[simp] theorem skipIf_v (c : Bool) : (skipIf s c).v = s.v := rfl
@[simp] theorem skipIf_i (c : Bool) : (skipIf s c).i = s.i := rfl
@[simp] theorem skipIf_pc (c : Bool) : (skipIf s c).pc = if c then s.pc + 4 else s.pc + 2 := rfl
@[simp] theorem skipIf_stack (c : Bool) : (skipIf s c).stack = s.stack := rfl
@[simp] theorem skipIf_dt (c : Bool) : (skipIf s c).dt = s.dt := rfl
@[simp] theorem skipIf_st (c : Bool) : (skipIf s c).st = s.st := rfl
@[simp] theorem skipIf_fb (c : Bool) : (skipIf s c).fb = s.fb := rfl
@[simp] theorem skipIf_dirty (c : Bool) : (skipIf s c).dirty = s.dirty := rfl
@[simp] theorem skipIf_keys (c : Bool) : (skipIf s c).keys = s.keys := rfl
@[simp] theorem skipIf_beep (c : Bool) : (skipIf s c).beep = s.beep := rfl
@[simp] theorem skipIf_mem (c : Bool) : (skipIf s c).mem = s.mem := rfl
@[simp] theorem skipIf_stackDepth (c : Bool) : (skipIf s c).stackDepth = s.stackDepth := rfl
@[simp] theorem skipIf_draws (c : Bool) : (skipIf s c).draws = s.draws := rfl

/-! ## `loadBlock` -/

@[simp] theorem loadBlock_i (x : Reg) : (loadBlock s x).i = s.i := rfl
@[simp] theorem loadBlock_pc (x : Reg) : (loadBlock s x).pc = s.pc := rfl
@[simp] theorem loadBlock_stack (x : Reg) : (loadBlock s x).stack = s.stack := rfl
@[simp] theorem loadBlock_dt (x : Reg) : (loadBlock s x).dt = s.dt := rfl
@[simp] theorem loadBlock_st (x : Reg) : (loadBlock s x).st = s.st := rfl
@[simp] theorem loadBlock_fb (x : Reg) : (loadBlock s x).fb = s.fb := rfl
@[simp] theorem loadBlock_dirty (x : Reg) : (loadBlock s x).dirty = s.dirty := rfl
@[simp] theorem loadBlock_keys (x : Reg) : (loadBlock s x).keys = s.keys := rfl
@[simp] theorem loadBlock_beep (x : Reg) : (loadBlock s x).beep = s.beep := rfl
@[simp] theorem loadBlock_mem (x : Reg) : (loadBlock s x).mem = s.mem := rfl
@[simp] theorem loadBlock_stackDepth (x : Reg) : (loadBlock s x).stackDepth = s.stackDepth := rfl
@[simp] theorem loadBlock_draws (x : Reg) : (loadBlock s x).draws = s.draws := rfl

/-! ## `setKey` -/

@[simp] theorem setKey_v (k : Fin 16) (b : Bool) : (setKey k b s).v = s.v := rfl
@[simp] theorem setKey_i (k : Fin 16) (b : Bool) : (setKey k b s).i = s.i := rfl
@[simp] theorem setKey_pc (k : Fin 16) (b : Bool) : (setKey k b s).pc = s.pc := rfl
@[simp] theorem setKey_stack (k : Fin 16) (b : Bool) : (setKey k b s).stack = s.stack := rfl
@[simp] theorem setKey_dt (k : Fin 16) (b : Bool) : (setKey k b s).dt = s.dt := rfl
@[simp] theorem setKey_st (k : Fin 16) (b : Bool) : (setKey k b s).st = s.st := rfl
@[simp] theorem setKey_fb (k : Fin 16) (b : Bool) : (setKey k b s).fb = s.fb := rfl
@[simp] theorem setKey_dirty (k : Fin 16) (b : Bool) : (setKey k b s).dirty = s.dirty := rfl
@[simp] theorem setKey_keys (k : Fin 16) (b : Bool) : (setKey k b s).keys = s.keys.set k b := rfl
@[simp] theorem setKey_beep (k : Fin 16) (b : Bool) : (setKey k b s).beep = s.beep := rfl
@[simp] theorem setKey_mem (k : Fin 16) (b : Bool) : (setKey k b s).mem = s.mem := rfl
@[simp] theorem setKey_stackDepth (k : Fin 16) (b : Bool) : (setKey k b s).stackDepth = s.stackDepth := rfl
@[simp] theorem setKey_draws (k : Fin 16) (b : Bool) : (setKey k b s).draws = s.draws := rfl

/-! ## `resetOp` -/

@[simp] theorem resetOp_v : (resetOp s).v = State.reset.v := rfl
@[simp] theorem resetOp_i : (resetOp s).i = 0 := rfl
@[simp] theorem resetOp_pc : (resetOp s).pc = 0x200 := rfl
@[simp] theorem resetOp_stack : (resetOp s).stack = [] := rfl
@[simp] theorem resetOp_dt : (resetOp s).dt = 0 := rfl
@[simp] theorem resetOp_st : (resetOp s).st = 0 := rfl
@[simp] theorem resetOp_fb : (resetOp s).fb = blankScreen := rfl
@[simp] theorem resetOp_dirty : (resetOp s).dirty = false := rfl
@[simp] theorem resetOp_keys : (resetOp s).keys = State.reset.keys := rfl
@[simp] theorem resetOp_beep : (resetOp s).beep = false := rfl
@[simp] theorem resetOp_mem : (resetOp s).mem = s.mem.writeBytes 0 fontBytes := by simp only [resetOp]
@[simp] theorem resetOp_stackDepth : (resetOp s).stackDepth = s.stackDepth := rfl
@[simp] theorem resetOp_draws : (resetOp s).draws = s.draws := rfl

/-! ## `tickSteps` -/

/-- A Tick's Steps, one taken. -/
theorem tickSteps_succ (c : Nat) (r : OpResult) :
    tickSteps (c + 1) s r = tickSteps c (stepOp s).1 (firstFailure r (stepOp s).2) := rfl

end Sys2Proof.Machine
end

