-- ==== Sys2Proof/Laws/Ops.lean ====
section
/-!
SUPPORT. One lemma per shared operation that says everything it does, to be cited where it would be unfolded.
-/

namespace Sys2Proof.Machine

variable (s : State)

/-! ## Registers -/

@[simp] theorem getV_setV (x y : Reg) (b : Byte) : getV (setV s x b) y = if y = x then b else getV s y := by
  simp only [getV, setV_v, Fin.getElem_fin, Vector.getElem_set, eq_comm, Fin.ext_iff]

@[simp] theorem getV_setFlag (y : Reg) (c : Bool) :
    getV (setFlag s c) y = if y = vf then flagByte c else getV s y := getV_setV s vf y (flagByte c)

@[simp] theorem getV_setI (x : Reg) (a : Word) : getV (setI s a) x = getV s x := rfl
@[simp] theorem getV_goTo (x : Reg) (a : Word) : getV (goTo s a) x = getV s x := rfl
@[simp] theorem getV_advance (x : Reg) : getV (advance s) x = getV s x := rfl
@[simp] theorem getV_skipIf (x : Reg) (c : Bool) : getV (skipIf s c) x = getV s x := rfl
@[simp] theorem getV_setDT (x : Reg) (b : Byte) : getV (setDT s b) x = getV s x := rfl
@[simp] theorem getV_setST (x : Reg) (b : Byte) : getV (setST s b) x = getV s x := rfl
@[simp] theorem getV_setMem (x : Reg) (m : Memory) : getV (setMem s m) x = getV s x := rfl
@[simp] theorem getV_push (x : Reg) (a : Word) : getV (push s a) x = getV s x := rfl
@[simp] theorem getV_dropTop (x : Reg) : getV (dropTop s) x = getV s x := rfl
@[simp] theorem getV_countDraw (x : Reg) : getV (countDraw s) x = getV s x := rfl
@[simp] theorem getV_showScreen (x : Reg) (f : Screen) : getV (showScreen s f) x = getV s x := rfl
@[simp] theorem getV_bumpI (x y : Reg) : getV (bumpI s y) x = getV s x := rfl

@[simp] theorem getV_loadBlock (x y : Reg) :
    getV (loadBlock s x) y = if y ≤ x then s.mem.read (s.i.toNat + y.val) else getV s y := by
  simp [getV, loadBlock, effAddr]

/-- A skip writes pc and nothing else. -/
theorem skipIf_eq (c : Bool) : skipIf s c = goTo s (if c then s.pc + 4 else s.pc + 2) := rfl

@[simp] theorem getV_reset (x : Reg) : getV State.reset x = 0 := by
  simp [getV, State.reset]

/-- A flag is the byte 0 or 1. -/
theorem flagByte_toNat (c : Bool) : (flagByte c).toNat = if c then 1 else 0 := by
  cases c <;> rfl

/-! ## Addresses -/

theorem inMemory_iff (k : Nat) : inMemory s k = true ↔ s.i.toNat + k ≤ 0xFFF := by
  exact decide_eq_true_iff

theorem address_toNat (nnn : BitVec 12) : (address nnn).toNat = nnn.toNat := by
  simp only [address, BitVec.toNat_setWidth]
  omega

theorem wide_toNat (b : Byte) : (wide b).toNat = b.toNat := by
  simp only [wide, BitVec.toNat_setWidth]
  omega

theorem mask12_toNat (n : Nat) : (mask12 n).toNat = n % 4096 := by
  simp only [mask12, BitVec.toNat_ofNat]
  omega

theorem blockValues_length (x : Reg) : (blockValues s x).length = x.val + 1 := by
  simp only [blockValues, blockLength, List.length_take, Vector.length_toList]
  omega

theorem blockValues_getElem (x : Reg) (k : Nat) (h : k < (blockValues s x).length) (hk : k < 16) :
    (blockValues s x)[k] = getV s ⟨k, hk⟩ := by
  simp [blockValues, getV]

theorem digits_length (b : Byte) : (digits b).length = 3 := rfl

/-- Memory after a store of `bs` from I up, byte by byte. -/
theorem read_store (bs : List Byte) (a : Nat) :
    (s.mem.writeBytes (effAddr s 0) bs).read a = byteAfterStore s bs a := by
  rw [Memory.read_writeBytes, byteAfterStore]
  by_cases h : effAddr s 0 ≤ a
  · by_cases h2 : a - effAddr s 0 < bs.length <;> simp [h, h2]
  · simp [h]

/-! ## Stack -/

theorem stackFull_iff : stackFull s = true ↔ ∃ d, s.stackDepth = some d ∧ d ≤ s.stack.length := by
  unfold stackFull
  cases s.stackDepth <;> simp

theorem top_none_iff : top s = none ↔ s.stack = [] := by
  simp [top]

/-! ## Keys -/

/-- The key found is pressed and no lower one is. -/
theorem leastKey_some {k : Fin 16} (h : leastKey s = some k) :
    keyDown s k = true ∧ ∀ j, j < k → keyDown s j = false := by
  unfold leastKey at h
  rw [List.find?_eq_some_iff_getElem] at h
  obtain ⟨hk, i, hi, he, hlt⟩ := h
  simp only [List.getElem_finRange, List.length_finRange] at he hi
  refine ⟨hk, fun j hj => ?_⟩
  have := hlt j.val (by rw [← he] at hj; simpa [Fin.lt_def] using hj)
  simpa using this

theorem leastKey_none (h : leastKey s = none) (k : Fin 16) : keyDown s k = false := by
  have := List.find?_eq_none.1 h k (List.mem_finRange k)
  simpa using this

theorem keyAt_lt {b : Byte} (h : b.toNat < 16) : keyAt s b = some (keyDown s ⟨b.toNat, h⟩) := by
  simp [keyAt, h]

theorem keyAt_ge {b : Byte} (h : 15 < b.toNat) : keyAt s b = none := by
  simp [keyAt]; omega

/-! ## Framebuffer -/

@[simp] theorem pixel_flipPixel (fb : Screen) (cx dx : Fin 64) (cy dy : Fin 32) :
    pixel (flipPixel fb cx cy) dx dy =
      if dx = cx ∧ dy = cy then !pixel fb dx dy else pixel fb dx dy := by
  simp only [pixel, flipPixel, Fin.getElem_fin, Vector.getElem_set]
  by_cases hx : dx = cx
  · subst hx
    by_cases hy : dy = cy
    · subst hy; simp
    · have : ¬cy.val = dy.val := fun h => hy (Fin.ext h.symm)
      simp [hy, this]
  · have : ¬cx.val = dx.val := fun h => hx (Fin.ext h.symm)
    simp [hx, this]

@[simp] theorem pixel_blankScreen (cx : Fin 64) (cy : Fin 32) : pixel blankScreen cx cy = false := by
  simp [pixel, blankScreen]

/-! ## Fetch and Step -/

/-- A word stored as its two bytes is the word read back. -/
theorem wordAt_writeBytes (m : Memory) (a : Nat) (w : Word) : wordAt (m.writeBytes a (bytesOfWord w)) a = w := by
  simp [wordAt, Memory.read_writeBytes, bytesOfWord, wordOfBytes_bytesOfWord]

/-- What the fetch answers, by the place of pc. -/
theorem fetch_cases :
    (0x1000 ≤ s.pc.toNat ∧ fetch s = .error (.outOfBoundsAddress s.pc s.pc none)) ∨
    (s.pc.toNat = 0xFFF ∧ fetch s = .error (.outOfBoundsAddress 0x1000 s.pc none)) ∨
    (s.pc.toNat ≤ 0xFFE ∧ fetch s = .ok (wordAt s.mem s.pc.toNat)) := by
  unfold fetch
  split
  · exact .inl ⟨by assumption, rfl⟩
  · split
    · exact .inr (.inl ⟨by assumption, rfl⟩)
    · exact .inr (.inr ⟨by omega, rfl⟩)

/-- A Step that goes on has fetched in memory, decoded an instruction and executed it. -/
theorem step_next_cases {s t : State} (h : step s = .next t) :
    s.pc.toNat ≤ 0xFFE ∧ ∃ i, decodeWord (wordAt s.mem s.pc.toNat) = .ok i ∧ exec i s = .next t := by
  unfold step at h
  rcases fetch_cases s with ⟨_, hf⟩ | ⟨_, hf⟩ | ⟨hp, hf⟩ <;> rw [hf] at h
  · cases h
  · cases h
  · refine ⟨hp, ?_⟩
    simp only at h
    split at h
    · cases h
    · exact ⟨_, by assumption, h⟩

end Sys2Proof.Machine
end

