-- ==== Sys2Proof/Laws/PerInstr.lean ====
section
/-!
SUPPORT. Per instruction: the encoder puts the opcode table's fixed bits where the table has them
(spec/opcode_table.json, 30_encoding.md R74).
-/

namespace Sys2Proof.Laws.TableRow

/-- A fixed bit field of a row of the opcode table: bits hi down to lo hold the value. -/
structure Fixed where
  hi : Nat
  lo : Nat
  value : Nat
  deriving DecidableEq, Repr

/-- The fixed fields of an instruction's row. -/
def fixedBits : Instr → List Fixed
  | .cls _ => [⟨15, 12, 0x0⟩, ⟨3, 0, 0x0⟩]
  | .ret _ => [⟨15, 12, 0x0⟩, ⟨3, 0, 0xE⟩]
  | .sys _ => [⟨15, 12, 0x0⟩]
  | .jp _ => [⟨15, 12, 0x1⟩]
  | .call _ => [⟨15, 12, 0x2⟩]
  | .seImm _ _ => [⟨15, 12, 0x3⟩]
  | .sneImm _ _ => [⟨15, 12, 0x4⟩]
  | .seReg _ _ _ => [⟨15, 12, 0x5⟩]
  | .ldImm _ _ => [⟨15, 12, 0x6⟩]
  | .addImm _ _ => [⟨15, 12, 0x7⟩]
  | .ldReg _ _ => [⟨15, 12, 0x8⟩, ⟨3, 0, 0x0⟩]
  | .orReg _ _ => [⟨15, 12, 0x8⟩, ⟨3, 0, 0x1⟩]
  | .andReg _ _ => [⟨15, 12, 0x8⟩, ⟨3, 0, 0x2⟩]
  | .xorReg _ _ => [⟨15, 12, 0x8⟩, ⟨3, 0, 0x3⟩]
  | .addReg _ _ => [⟨15, 12, 0x8⟩, ⟨3, 0, 0x4⟩]
  | .subReg _ _ => [⟨15, 12, 0x8⟩, ⟨3, 0, 0x5⟩]
  | .shr _ _ => [⟨15, 12, 0x8⟩, ⟨3, 0, 0x6⟩]
  | .subnReg _ _ => [⟨15, 12, 0x8⟩, ⟨3, 0, 0x7⟩]
  | .shl _ _ => [⟨15, 12, 0x8⟩, ⟨3, 0, 0xE⟩]
  | .sneReg _ _ _ => [⟨15, 12, 0x9⟩]
  | .ldI _ => [⟨15, 12, 0xA⟩]
  | .jpV0 _ => [⟨15, 12, 0xB⟩]
  | .rnd _ _ => [⟨15, 12, 0xC⟩]
  | .drw _ _ _ => [⟨15, 12, 0xD⟩]
  | .skp _ _ => [⟨15, 12, 0xE⟩, ⟨3, 0, 0xE⟩]
  | .sknp _ _ => [⟨15, 12, 0xE⟩, ⟨3, 0, 0x1⟩]
  | .ldVxDt _ => [⟨15, 12, 0xF⟩, ⟨7, 0, 0x7⟩]
  | .ldVxK _ => [⟨15, 12, 0xF⟩, ⟨7, 0, 0xA⟩]
  | .ldDtVx _ => [⟨15, 12, 0xF⟩, ⟨7, 0, 0x15⟩]
  | .ldStVx _ => [⟨15, 12, 0xF⟩, ⟨7, 0, 0x18⟩]
  | .addI _ => [⟨15, 12, 0xF⟩, ⟨7, 0, 0x1E⟩]
  | .ldF _ => [⟨15, 12, 0xF⟩, ⟨7, 0, 0x29⟩]
  | .ldB _ => [⟨15, 12, 0xF⟩, ⟨7, 0, 0x33⟩]
  | .storeRegs _ => [⟨15, 12, 0xF⟩, ⟨7, 0, 0x55⟩]
  | .loadRegs _ => [⟨15, 12, 0xF⟩, ⟨7, 0, 0x65⟩]

/-- Every fixed field of the row reads as its value in the encoded word. -/
def Statement (i : Instr) : Prop :=
  ∀ f ∈ fixedBits i, (encode i).toNat / 2 ^ f.lo % 2 ^ (f.hi + 1 - f.lo) = f.value

theorem cls (u : BitVec 8) : Statement (.cls u) := by
  simp only [Statement, fixedBits, List.forall_mem_cons, encode, packZ_toNat, BitVec.toNat_ofNat]
  refine ⟨by omega, ?_⟩
  refine ⟨by omega, ?_⟩
  simp

theorem ret (u : BitVec 8) : Statement (.ret u) := by
  simp only [Statement, fixedBits, List.forall_mem_cons, encode, packZ_toNat, BitVec.toNat_ofNat]
  refine ⟨by omega, ?_⟩
  refine ⟨by omega, ?_⟩
  simp

theorem sys (nnn : BitVec 12) : Statement (.sys nnn) := by
  simp only [Statement, fixedBits, List.forall_mem_cons, encode, packNNN_toNat, BitVec.toNat_ofNat]
  refine ⟨by omega, ?_⟩
  simp

theorem jp (nnn : BitVec 12) : Statement (.jp nnn) := by
  simp only [Statement, fixedBits, List.forall_mem_cons, encode, packNNN_toNat, BitVec.toNat_ofNat]
  refine ⟨by omega, ?_⟩
  simp

theorem call (nnn : BitVec 12) : Statement (.call nnn) := by
  simp only [Statement, fixedBits, List.forall_mem_cons, encode, packNNN_toNat, BitVec.toNat_ofNat]
  refine ⟨by omega, ?_⟩
  simp

theorem seImm (x : Reg) (nn : Byte) : Statement (.seImm x nn) := by
  simp only [Statement, fixedBits, List.forall_mem_cons, encode, packXNN_toNat, BitVec.toNat_ofNat]
  refine ⟨by omega, ?_⟩
  simp

theorem sneImm (x : Reg) (nn : Byte) : Statement (.sneImm x nn) := by
  simp only [Statement, fixedBits, List.forall_mem_cons, encode, packXNN_toNat, BitVec.toNat_ofNat]
  refine ⟨by omega, ?_⟩
  simp

theorem seReg (x y : Reg) (u : BitVec 4) : Statement (.seReg x y u) := by
  simp only [Statement, fixedBits, List.forall_mem_cons, encode, packXYN_toNat, BitVec.toNat_ofNat]
  refine ⟨by omega, ?_⟩
  simp

theorem ldImm (x : Reg) (nn : Byte) : Statement (.ldImm x nn) := by
  simp only [Statement, fixedBits, List.forall_mem_cons, encode, packXNN_toNat, BitVec.toNat_ofNat]
  refine ⟨by omega, ?_⟩
  simp

theorem addImm (x : Reg) (nn : Byte) : Statement (.addImm x nn) := by
  simp only [Statement, fixedBits, List.forall_mem_cons, encode, packXNN_toNat, BitVec.toNat_ofNat]
  refine ⟨by omega, ?_⟩
  simp

theorem ldReg (x y : Reg) : Statement (.ldReg x y) := by
  simp only [Statement, fixedBits, List.forall_mem_cons, encode, packXYN_toNat, BitVec.toNat_ofNat]
  refine ⟨by omega, ?_⟩
  refine ⟨by omega, ?_⟩
  simp

theorem orReg (x y : Reg) : Statement (.orReg x y) := by
  simp only [Statement, fixedBits, List.forall_mem_cons, encode, packXYN_toNat, BitVec.toNat_ofNat]
  refine ⟨by omega, ?_⟩
  refine ⟨by omega, ?_⟩
  simp

theorem andReg (x y : Reg) : Statement (.andReg x y) := by
  simp only [Statement, fixedBits, List.forall_mem_cons, encode, packXYN_toNat, BitVec.toNat_ofNat]
  refine ⟨by omega, ?_⟩
  refine ⟨by omega, ?_⟩
  simp

theorem xorReg (x y : Reg) : Statement (.xorReg x y) := by
  simp only [Statement, fixedBits, List.forall_mem_cons, encode, packXYN_toNat, BitVec.toNat_ofNat]
  refine ⟨by omega, ?_⟩
  refine ⟨by omega, ?_⟩
  simp

theorem addReg (x y : Reg) : Statement (.addReg x y) := by
  simp only [Statement, fixedBits, List.forall_mem_cons, encode, packXYN_toNat, BitVec.toNat_ofNat]
  refine ⟨by omega, ?_⟩
  refine ⟨by omega, ?_⟩
  simp

theorem subReg (x y : Reg) : Statement (.subReg x y) := by
  simp only [Statement, fixedBits, List.forall_mem_cons, encode, packXYN_toNat, BitVec.toNat_ofNat]
  refine ⟨by omega, ?_⟩
  refine ⟨by omega, ?_⟩
  simp

theorem shr (x y : Reg) : Statement (.shr x y) := by
  simp only [Statement, fixedBits, List.forall_mem_cons, encode, packXYN_toNat, BitVec.toNat_ofNat]
  refine ⟨by omega, ?_⟩
  refine ⟨by omega, ?_⟩
  simp

theorem subnReg (x y : Reg) : Statement (.subnReg x y) := by
  simp only [Statement, fixedBits, List.forall_mem_cons, encode, packXYN_toNat, BitVec.toNat_ofNat]
  refine ⟨by omega, ?_⟩
  refine ⟨by omega, ?_⟩
  simp

theorem shl (x y : Reg) : Statement (.shl x y) := by
  simp only [Statement, fixedBits, List.forall_mem_cons, encode, packXYN_toNat, BitVec.toNat_ofNat]
  refine ⟨by omega, ?_⟩
  refine ⟨by omega, ?_⟩
  simp

theorem sneReg (x y : Reg) (u : BitVec 4) : Statement (.sneReg x y u) := by
  simp only [Statement, fixedBits, List.forall_mem_cons, encode, packXYN_toNat, BitVec.toNat_ofNat]
  refine ⟨by omega, ?_⟩
  simp

theorem ldI (nnn : BitVec 12) : Statement (.ldI nnn) := by
  simp only [Statement, fixedBits, List.forall_mem_cons, encode, packNNN_toNat, BitVec.toNat_ofNat]
  refine ⟨by omega, ?_⟩
  simp

theorem jpV0 (nnn : BitVec 12) : Statement (.jpV0 nnn) := by
  simp only [Statement, fixedBits, List.forall_mem_cons, encode, packNNN_toNat, BitVec.toNat_ofNat]
  refine ⟨by omega, ?_⟩
  simp

theorem rnd (x : Reg) (nn : Byte) : Statement (.rnd x nn) := by
  simp only [Statement, fixedBits, List.forall_mem_cons, encode, packXNN_toNat, BitVec.toNat_ofNat]
  refine ⟨by omega, ?_⟩
  simp

theorem drw (x y : Reg) (n : BitVec 4) : Statement (.drw x y n) := by
  simp only [Statement, fixedBits, List.forall_mem_cons, encode, packXYN_toNat, BitVec.toNat_ofNat]
  refine ⟨by omega, ?_⟩
  simp

theorem skp (x : Reg) (u : BitVec 4) : Statement (.skp x u) := by
  simp only [Statement, fixedBits, List.forall_mem_cons, encode, packXUN_toNat, BitVec.toNat_ofNat]
  refine ⟨by omega, ?_⟩
  refine ⟨by omega, ?_⟩
  simp

theorem sknp (x : Reg) (u : BitVec 4) : Statement (.sknp x u) := by
  simp only [Statement, fixedBits, List.forall_mem_cons, encode, packXUN_toNat, BitVec.toNat_ofNat]
  refine ⟨by omega, ?_⟩
  refine ⟨by omega, ?_⟩
  simp

theorem ldVxDt (x : Reg) : Statement (.ldVxDt x) := by
  simp only [Statement, fixedBits, List.forall_mem_cons, encode, packXNN_toNat, BitVec.toNat_ofNat]
  refine ⟨by omega, ?_⟩
  refine ⟨by omega, ?_⟩
  simp

theorem ldVxK (x : Reg) : Statement (.ldVxK x) := by
  simp only [Statement, fixedBits, List.forall_mem_cons, encode, packXNN_toNat, BitVec.toNat_ofNat]
  refine ⟨by omega, ?_⟩
  refine ⟨by omega, ?_⟩
  simp

theorem ldDtVx (x : Reg) : Statement (.ldDtVx x) := by
  simp only [Statement, fixedBits, List.forall_mem_cons, encode, packXNN_toNat, BitVec.toNat_ofNat]
  refine ⟨by omega, ?_⟩
  refine ⟨by omega, ?_⟩
  simp

theorem ldStVx (x : Reg) : Statement (.ldStVx x) := by
  simp only [Statement, fixedBits, List.forall_mem_cons, encode, packXNN_toNat, BitVec.toNat_ofNat]
  refine ⟨by omega, ?_⟩
  refine ⟨by omega, ?_⟩
  simp

theorem addI (x : Reg) : Statement (.addI x) := by
  simp only [Statement, fixedBits, List.forall_mem_cons, encode, packXNN_toNat, BitVec.toNat_ofNat]
  refine ⟨by omega, ?_⟩
  refine ⟨by omega, ?_⟩
  simp

theorem ldF (x : Reg) : Statement (.ldF x) := by
  simp only [Statement, fixedBits, List.forall_mem_cons, encode, packXNN_toNat, BitVec.toNat_ofNat]
  refine ⟨by omega, ?_⟩
  refine ⟨by omega, ?_⟩
  simp

theorem ldB (x : Reg) : Statement (.ldB x) := by
  simp only [Statement, fixedBits, List.forall_mem_cons, encode, packXNN_toNat, BitVec.toNat_ofNat]
  refine ⟨by omega, ?_⟩
  refine ⟨by omega, ?_⟩
  simp

theorem storeRegs (x : Reg) : Statement (.storeRegs x) := by
  simp only [Statement, fixedBits, List.forall_mem_cons, encode, packXNN_toNat, BitVec.toNat_ofNat]
  refine ⟨by omega, ?_⟩
  refine ⟨by omega, ?_⟩
  simp

theorem loadRegs (x : Reg) : Statement (.loadRegs x) := by
  simp only [Statement, fixedBits, List.forall_mem_cons, encode, packXNN_toNat, BitVec.toNat_ofNat]
  refine ⟨by omega, ?_⟩
  refine ⟨by omega, ?_⟩
  simp

end Sys2Proof.Laws.TableRow
end

