-- ==== Sys2Proof/Tests/Slice0.lean ====
section
/-!
SUPPORT. The model's own tests. Expected results come from the examples of the rules and from spec/95_test_vectors.md (the
vector's name stands in the comment), words from 30_encoding.md R74; none was taken from the model. The last part gives, for
each obligation that has hypotheses, a state and operands that meet them.
-/

namespace Sys2Proof.Tests

-- One thread: the many small kernel evaluations would else each take a thread of their own.
set_option Elab.async false

open Sys2Proof Sys2Proof.Machine

/-! ## Helpers -/

/-- The next state of an answer, if it is one. -/
def nextOf : Result → Option State
  | .next t => some t
  | .fault _ => none
  | .refused _ => none

/-- The fault of an answer, if it is one. -/
def faultOf : Result → Option Fault
  | .next _ => none
  | .fault f => some f
  | .refused _ => none

/-- The state after reset with some registers set. -/
def regs (rs : List (Reg × Byte)) : State := rs.foldl (fun s r => setV s r.1 r.2) State.reset

/-- The state with some bytes of memory written from `a` up. -/
def poke (s : State) (a : Nat) (bs : List Byte) : State := setMem s (s.mem.writeBytes a bs)

/-- One Step of the word `w`, placed at pc. -/
def ran (s : State) (w : Nat) : Option State := nextOf (step (s.withFetchWord 16 w))

/-- The fault of that Step. -/
def stopped (s : State) (w : Nat) : Option Fault := faultOf (step (s.withFetchWord 16 w))

/-- Registers after a Step. -/
def reg (t : Option State) (x : Reg) : Option Byte := t.map fun u => getV u x

/-- pc after a Step. -/
def pcOf (t : Option State) : Option Word := t.map fun u => u.pc

/-- I after a Step. -/
def iOf (t : Option State) : Option Word := t.map fun u => u.i

/-- Bytes of memory after a Step. -/
def bytes (t : Option State) (as : List Nat) : Option (List Byte) := t.map fun u => as.map u.mem.read

/-- Whether the lit cells among those of the listed columns and rows are exactly the listed ones. -/
def lit (t : Option State) (cols : List (Fin 64)) (rows : List (Fin 32)) : Option (List (Fin 64 × Fin 32)) :=
  t.map fun u => cols.flatMap fun cx => (rows.filter fun cy => pixel u.fb cx cy).map fun cy => (cx, cy)

/-- How many cells are lit. -/
def litCount (t : Option State) : Option Nat :=
  t.map fun u => ((flatCells u.fb).filter fun b => b).length

/-- The instruction a word decodes to. -/
def dec (w : Word) : Option Instr := (decodeWord w).toOption

/-! ## Well-formedness: the one check refuses what it is for -/

theorem test_wf_sys_low_nibble_0 : wellFormed (.sys 0x230) = false := by decide
theorem test_wf_sys_low_nibble_E : wellFormed (.sys 0x0EE) = false := by decide
theorem test_wf_sys : wellFormed (.sys 0x123) = true := by decide

/-! ## Decoding, one word of each instruction at least (30_encoding.md R74, 95_test_vectors.md 2.7) -/

theorem test_dec_cls : dec 0x00E0 = some (.cls 0x0E) ∧ dec 0x0230 = some (.cls 0x23) := by decide
theorem test_dec_ret : dec 0x00EE = some (.ret 0x0E) ∧ dec 0x00FE = some (.ret 0x0F) := by decide
theorem test_dec_sys : dec 0x00FD = some (.sys 0x0FD) ∧ dec 0x0123 = some (.sys 0x123) := by decide
theorem test_dec_jp : dec 0x1234 = some (.jp 0x234) := by decide
theorem test_dec_call : dec 0x2300 = some (.call 0x300) := by decide
theorem test_dec_seImm : dec 0x3A07 = some (.seImm 0xA 0x07) := by decide
theorem test_dec_sneImm : dec 0x4A07 = some (.sneImm 0xA 0x07) := by decide
theorem test_dec_seReg : dec 0x5AB0 = some (.seReg 0xA 0xB 0) ∧ dec 0x5AB7 = some (.seReg 0xA 0xB 7) := by decide
theorem test_dec_ldImm : dec 0x6A02 = some (.ldImm 0xA 0x02) := by decide
theorem test_dec_addImm : dec 0x7A05 = some (.addImm 0xA 0x05) := by decide
theorem test_dec_ldReg : dec 0x8120 = some (.ldReg 1 2) := by decide
theorem test_dec_orReg : dec 0x8121 = some (.orReg 1 2) := by decide
theorem test_dec_andReg : dec 0x8122 = some (.andReg 1 2) := by decide
theorem test_dec_xorReg : dec 0x8123 = some (.xorReg 1 2) := by decide
theorem test_dec_addReg : dec 0x8124 = some (.addReg 1 2) := by decide
theorem test_dec_subReg : dec 0x8125 = some (.subReg 1 2) := by decide
theorem test_dec_shr : dec 0x8126 = some (.shr 1 2) := by decide
theorem test_dec_subnReg : dec 0x8AB7 = some (.subnReg 0xA 0xB) := by decide
theorem test_dec_shl : dec 0x812E = some (.shl 1 2) := by decide
theorem test_dec_sneReg : dec 0x9AB0 = some (.sneReg 0xA 0xB 0) ∧ dec 0x9ABF = some (.sneReg 0xA 0xB 0xF) := by decide
theorem test_dec_ldI : dec 0xA2F0 = some (.ldI 0x2F0) := by decide
theorem test_dec_jpV0 : dec 0xB210 = some (.jpV0 0x210) := by decide
theorem test_dec_rnd : dec 0xC10F = some (.rnd 1 0x0F) := by decide
theorem test_dec_drw : dec 0xD125 = some (.drw 1 2 5) := by decide
theorem test_dec_skp : dec 0xEA9E = some (.skp 0xA 9) ∧ dec 0xEA0E = some (.skp 0xA 0) := by decide
theorem test_dec_sknp : dec 0xEAA1 = some (.sknp 0xA 0xA) ∧ dec 0xEA01 = some (.sknp 0xA 0) := by decide
theorem test_dec_ldVxDt : dec 0xFA07 = some (.ldVxDt 0xA) := by decide
theorem test_dec_ldVxK : dec 0xFA0A = some (.ldVxK 0xA) := by decide
theorem test_dec_ldDtVx : dec 0xFA15 = some (.ldDtVx 0xA) := by decide
theorem test_dec_ldStVx : dec 0xFA18 = some (.ldStVx 0xA) := by decide
theorem test_dec_addI : dec 0xFA1E = some (.addI 0xA) := by decide
theorem test_dec_ldF : dec 0xFA29 = some (.ldF 0xA) := by decide
theorem test_dec_ldB : dec 0xFA33 = some (.ldB 0xA) := by decide
theorem test_dec_storeRegs : dec 0xFA55 = some (.storeRegs 0xA) := by decide
theorem test_dec_loadRegs : dec 0xFA65 = some (.loadRegs 0xA) := by decide

/-- The words that 95_test_vectors.md 2.7 lists as unknown in families 8, E and F. -/
theorem test_dec_unknown :
    [0x8AB8, 0x8ABD, 0x8ABF, 0xEA9F, 0xEAA0, 0xFA00, 0xFA30, 0xFA75, 0xFA85, 0xFAFF].map dec =
      List.replicate 10 none := by decide

/-- Big-endian: the bytes 6A, 02 are the word 0x6A02 (S14). -/
theorem test_dec_bytes : decode [0x6A, 0x02, 0x33] = .ok (.ldImm 0xA 0x02, [0x33]) := by decide
theorem test_dec_truncated : decode [0x6A] = .error .truncated := by decide
theorem test_decodeTableWord : decodeTableWord 16 0xD125 = some (.drw 1 2 5) := by decide

/-! ## Control transfer (vectors V-C*) -/

-- V-C1, V-C2
theorem test_jp : pcOf (ran State.reset 0x1234) = some 0x234 ∧ pcOf (ran State.reset 0x1200) = some 0x200 := by
  decide +kernel
-- V-C4
theorem test_call : (ran State.reset 0x2300).map (fun t => (t.pc, t.stack)) = some (0x300, [0x200]) := by
  decide +kernel
-- V-C9 with STACK_DEPTH = 2
theorem test_call_full :
    stopped { State.reset with stack := [0x200, 0x200], stackDepth := some 2 } 0x2200 =
      some (.stackOverflow 0x200) := by decide +kernel
-- V-C6
theorem test_ret :
    (ran { State.reset with pc := 0x300, stack := [0x200, 0x24A] } 0x00EE).map (fun t => (t.pc, t.stack)) =
      some (0x24C, [0x200]) := by decide +kernel
-- V-C7
theorem test_ret_empty : stopped State.reset 0x00EE = some (.stackUnderflow 0x200) := by decide +kernel
-- V-C24
theorem test_sys : stopped State.reset 0x0123 = some (.unknownOpcode 0x0123 0x200) := by decide +kernel
-- V-C10, V-C11
theorem test_seImm : pcOf (ran (regs [(0xA, 0x07)]) 0x3A07) = some 0x204 ∧
    pcOf (ran (regs [(0xA, 0x08)]) 0x3A07) = some 0x202 := by decide +kernel
-- V-C12, V-C13
theorem test_sneImm : pcOf (ran (regs [(0xA, 0x07)]) 0x4A07) = some 0x202 ∧
    pcOf (ran (regs [(0xA, 0x08)]) 0x4A07) = some 0x204 := by decide +kernel
-- V-C17, V-C15
theorem test_seReg : pcOf (ran (regs [(1, 0x33), (2, 0x33)]) 0x512F) = some 0x204 ∧
    pcOf (ran (regs [(1, 0x33), (2, 0x34)]) 0x5120) = some 0x202 := by decide +kernel
-- V-C18, V-C19
theorem test_sneReg : pcOf (ran (regs [(1, 1), (2, 2)]) 0x9120) = some 0x204 ∧
    pcOf (ran (regs [(1, 1), (2, 1)]) 0x9120) = some 0x202 := by decide +kernel
-- V-C22, V-C23
theorem test_jpV0 : pcOf (ran (regs [(0, 0xFF)]) 0xBFFF) = some 0x10FE ∧
    pcOf (ran (regs [(3, 0x55)]) 0xB300) = some 0x300 := by decide +kernel

/-! ## Arithmetic, logic, random (vectors V-A*) -/

-- V-A2
theorem test_ldImm : reg (ran State.reset 0x6F7B) 15 = some 0x7B := by decide +kernel
-- V-A4
theorem test_addImm : (ran (regs [(1, 0xFF)]) 0x7101).map (fun t => (getV t 1, getV t 15)) = some (0, 0) := by
  decide +kernel
-- V-A6
theorem test_ldReg : reg (ran (regs [(2, 0x7C)]) 0x8120) 1 = some 0x7C := by decide +kernel
-- V-A7, V-A8, V-A9
theorem test_orReg : (ran (regs [(1, 0xF0), (2, 0x3C), (15, 1)]) 0x8121).map (fun t => (getV t 1, getV t 15)) =
    some (0xFC, 1) := by decide +kernel
theorem test_andReg : (ran (regs [(1, 0xF0), (2, 0x3C), (15, 1)]) 0x8122).map (fun t => (getV t 1, getV t 15)) =
    some (0x30, 1) := by decide +kernel
theorem test_xorReg : (ran (regs [(1, 0xF0), (2, 0x3C), (15, 1)]) 0x8123).map (fun t => (getV t 1, getV t 15)) =
    some (0xCC, 1) := by decide +kernel
-- V-A11
theorem test_addReg : (ran (regs [(1, 0xC8), (2, 0x64)]) 0x8124).map (fun t => (getV t 1, getV t 15)) =
    some (0x2C, 1) := by decide +kernel
-- V-A17
theorem test_addReg_vf : reg (ran (regs [(15, 0x02), (1, 0x03)]) 0x8F14) 15 = some 0 := by decide +kernel
-- V-A19
theorem test_subReg : (ran (regs [(1, 0x05), (2, 0x07)]) 0x8125).map (fun t => (getV t 1, getV t 15)) =
    some (0xFE, 0) := by decide +kernel
-- V-A21
theorem test_subReg_equal : (ran (regs [(1, 0x07), (2, 0x07)]) 0x8125).map (fun t => (getV t 1, getV t 15)) =
    some (0, 1) := by decide +kernel
-- V-A31
theorem test_shr : (ran (regs [(1, 0x04), (2, 0xFF)]) 0x8126).map (fun t => (getV t 1, getV t 15, getV t 2)) =
    some (0x02, 0, 0xFF) := by decide +kernel
-- V-A32
theorem test_shr_vf : reg (ran (regs [(15, 0x03)]) 0x8F06) 15 = some 1 := by decide +kernel
-- V-A26
theorem test_subnReg : (ran (regs [(1, 0x07), (2, 0x05)]) 0x8127).map (fun t => (getV t 1, getV t 15)) =
    some (0xFE, 0) := by decide +kernel
-- V-A36
theorem test_shl : (ran (regs [(1, 0x01), (2, 0x80)]) 0x812E).map (fun t => (getV t 1, getV t 15, getV t 2)) =
    some (0x02, 0, 0x80) := by decide +kernel
-- V-A38
theorem test_shl_vf : reg (ran (regs [(15, 0x7F)]) 0x8F0E) 15 = some 0 := by decide +kernel
-- V-A40: any draw
theorem test_rnd : ∃ t, exec (.rnd 1 0x00) State.reset = .next t ∧ getV t 1 = 0 ∧ t.draws = 1 :=
  ⟨_, rfl, by simp, rfl⟩
-- V-A42
theorem test_unknown8 : stopped State.reset 0x8128 = some (.unknownOpcode 0x8128 0x200) := by decide +kernel

/-! ## Address register and memory (vectors V-M*) -/

-- V-M2
theorem test_ldI : iOf (ran State.reset 0xAFFF) = some 0xFFF := by decide +kernel
-- V-M4
theorem test_addI : (ran { regs [(1, 0x01)] with i := 0xFFF } 0xF11E).map (fun t => (t.i, getV t 15)) = some (0, 1) := by
  decide +kernel
-- V-M5
theorem test_addI_edge :
    (ran { regs [(1, 0xFF), (15, 1)] with i := 0xF00 } 0xF11E).map (fun t => (t.i, getV t 15)) = some (0xFFF, 0) := by
  decide +kernel
-- V-M12
theorem test_ldF : iOf (ran (regs [(1, 0x10)]) 0xF129) = some 0x050 := by decide +kernel
-- V-M14
theorem test_ldB : bytes (ran { regs [(1, 0x9C)] with i := 0x300 } 0xF133) [0x300, 0x301, 0x302] = some [1, 5, 6] := by
  decide +kernel
-- V-M20
theorem test_ldB_fault : stopped { State.reset with i := 0xFFE } 0xF133 =
    some (.outOfBoundsAddress 0x1000 0x200 (some 0xF133)) := by decide +kernel
-- V-M21
theorem test_storeRegs :
    (ran { regs [(0, 1), (1, 2), (2, 3), (3, 4)] with i := 0x400 } 0xF255).map
      (fun t => ([0x400, 0x401, 0x402, 0x403].map t.mem.read, t.i)) = some ([1, 2, 3, 0], 0x403) := by decide +kernel
-- V-M23
theorem test_storeRegs_edge :
    (ran { regs [(15, 0x10)] with i := 0xFF0 } 0xFF55).map (fun t => (t.mem.read 0xFFF, t.i)) = some (0x10, 0) := by
  decide +kernel
-- V-M25
theorem test_loadRegs :
    (ran (poke { regs [(2, 0x11)] with i := 0x400 } 0x400 [0xAA, 0xBB, 0xCC]) 0xF165).map
      (fun t => ([0, 1, 2].map (getV t), t.i)) = some ([0xAA, 0xBB, 0x11], 0x402) := by decide +kernel
-- V-M28
theorem test_loadRegs_fault : stopped { State.reset with i := 0xFFF } 0xF165 =
    some (.outOfBoundsAddress 0x1000 0x200 (some 0xF165)) := by decide +kernel

/-! ## Display (vectors V-D*) -/

-- V-D1
theorem test_cls :
    (ran { State.reset with fb := Vector.replicate 64 (Vector.replicate 32 true) } 0x00E0).map
      (fun t => (((flatCells t.fb).filter fun b => b).length, t.dirty)) = some (0, true) := by decide +kernel
-- V-D4
theorem test_drw_wrap :
    let t := ran (poke { regs [(1, 0xFF), (2, 0xFF)] with i := 0x300 } 0x300 [0xFF]) 0xD121
    litCount t = some 8 ∧ lit t [63, 0, 6, 7] [31, 0] = some [(63, 31), (0, 31), (6, 31)] ∧ reg t 15 = some 0 := by
  decide +kernel
-- V-D6
theorem test_drw_collision :
    let t := ran (poke { regs [(1, 5), (2, 7)] with i := 0x300, fb := flipPixel blankScreen 6 7 } 0x300 [0xC0]) 0xD121
    litCount t = some 1 ∧ lit t [5, 6] [7] = some [(5, 7)] ∧ reg t 15 = some 1 := by decide +kernel
-- V-D13
theorem test_flat : (flatCells (flipPixel blankScreen 1 0)).findIdx? (fun b => b) = some 32 := by decide +kernel

/-! ## Keypad and timers (vectors V-K*) -/

-- V-K1, V-K2
theorem test_skp : pcOf (ran (setKey 10 true (regs [(1, 0x0A)])) 0xE19E) = some 0x204 ∧
    pcOf (ran (regs [(1, 0x0A)]) 0xE19E) = some 0x202 := by decide +kernel
-- V-K5
theorem test_skp_fault : stopped (regs [(1, 0x10)]) 0xE19E = some (.keyIndexOutOfRange 16 0x200 0xE19E) := by
  decide +kernel
-- V-K3, V-K4
theorem test_sknp : pcOf (ran (regs [(1, 0x0A)]) 0xE1A1) = some 0x204 ∧
    pcOf (ran (setKey 10 true (regs [(1, 0x0A)])) 0xE1A1) = some 0x202 := by decide +kernel
-- V-K6
theorem test_sknp_fault : stopped (regs [(1, 0xFF)]) 0xE1A1 = some (.keyIndexOutOfRange 255 0x200 0xE1A1) := by
  decide +kernel
-- V-K9
theorem test_await_none : (ran State.reset 0xF30A).map (fun t => t.pc) = some 0x200 := by decide +kernel
-- V-K11
theorem test_await_least :
    (ran (setKey 7 true (setKey 12 true State.reset)) 0xF30A).map (fun t => (getV t 3, t.pc)) = some (0x07, 0x202) := by
  decide +kernel
-- V-K13, V-K14, V-K15
theorem test_ldVxDt : reg (ran { State.reset with dt := 0x3C } 0xF207) 2 = some 0x3C := by decide +kernel
theorem test_ldDtVx : (ran (regs [(2, 0x3C)]) 0xF215).map (fun t => t.dt) = some 0x3C := by decide +kernel
theorem test_ldStVx : (ran (regs [(2, 0x02)]) 0xF218).map (fun t => (t.st, t.beep)) = some (0x02, false) := by
  decide +kernel

/-! ## The fetch, Tick, Reset and Load (vectors V-T*, V-R1, V-L*) -/

-- V-T12, V-T13
theorem test_fetch_edge :
    faultOf (step { State.reset with pc := 0xFFF }) = some (.outOfBoundsAddress 0x1000 0xFFF none) ∧
    faultOf (step { State.reset with pc := 0x1000 }) = some (.outOfBoundsAddress 0x1000 0x1000 none) := by decide +kernel
-- V-T14
theorem test_fetch_last : (ran { State.reset with pc := 0xFFE } 0x6A02).map (fun t => (getV t 10, t.pc)) =
    some (2, 0x1000) := by decide +kernel
-- V-T1
theorem test_tick0 :
    (tick 0 { State.reset with dt := 5, dirty := true, beep := true }).map
      (fun t => (t.dt, t.st, t.dirty, t.beep)) id = ((4, 0, false, false), .ok) := by decide +kernel
-- V-T2 (S9), V-T4
theorem test_tick_beep :
    (tick 0 { State.reset with st := 1 }).map (fun t => (t.st, t.beep)) id = ((0, true), .ok) ∧
    (tick 0 { State.reset with st := 2 }).map (fun t => (t.st, t.beep)) id = ((1, false), .ok) := by decide +kernel
-- V-T11, its last Step: the timers are counted on a failed Tick
theorem test_tick_fault :
    (tick 1 (State.withFetchWord { State.reset with dt := 5, st := 5 } 16 0xFFFF)).map (fun t => (t.dt, t.st, t.pc)) id =
      ((4, 4, 0x200), .fault (.unknownOpcode 0xFFFF 0x200)) := by decide +kernel
-- V-R1
theorem test_reset :
    let s := { poke (poke (regs [(3, 7)]) 0x003 [0x00]) 0x300 [0x99] with stack := [0x222], dirty := true }
    (resetOp s).mem.read 0x003 = 0x90 ∧ (resetOp s).mem.read 0x300 = 0x99 ∧ getV (resetOp s) 3 = 0 ∧
      (resetOp s).stack = [] ∧ (resetOp s).pc = 0x200 ∧ (resetOp s).dirty = false := by decide +kernel
-- V-L1, V-L2
theorem test_load :
    (load [0x6A, 0x02] 0x200 State.reset).map (fun t => [0x200, 0x201].map t.mem.read) id = ([0x6A, 0x02], .ok) ∧
    (load [] 0x200 State.reset).2 = .loadError := by decide +kernel
-- V-L5, V-L6
theorem test_load_edge :
    (load [0x77] 0xFFF State.reset).2 = .ok ∧ (load [0x77] 0x1000 State.reset).2 = .loadError := by decide +kernel

/-! ## Witnesses: for each obligation with hypotheses, a state and operands that meet them -/

/-- The state that `exec` answers, where it answers one. -/
def after (i : Instr) (s : State) : State := (nextOf (exec i s)).getD s

/-- The state after reset with `w` at pc, pc being `pc`. -/
def at_ (pc : Word) (w : Nat) : State := State.withFetchWord { State.reset with pc := pc } 16 w

theorem witness_DecodeUndoesEncode : wellFormed (.sys 0xFFF) = true ∧ wellFormed (.drw 15 15 15) = true := by decide
theorem witness_EncodeUndoesDecode : decodeWord 0xDFFF = .ok (.drw 15 15 15) := by decide

/-- A word of each of the four sets and a neighbour outside it, the last at the highest address a word can be fetched from. -/
theorem witness_UnknownOpcodeExactlyTheFourSets :
    (∀ p ∈ [((0x200 : Word), 0x0001), (0x200, 0x0000), (0x200, 0x8008), (0x200, 0x8007), (0x200, 0xE002),
        (0x200, 0xE001), (0x200, 0xF064), (0xFFE, 0xF065)],
      (at_ p.1 p.2).pc.toNat ≤ 0xFFE ∧ (wordAt (at_ p.1 p.2).mem (at_ p.1 p.2).pc.toNat).toNat = p.2) := by
  decide +kernel

theorem witness_IgnoredBitsChangeNothing :
    SameButIgnored 0x00E0 0x0FF0 ∧ SameButIgnored 0x00EE 0x000E ∧ SameButIgnored 0x5AB0 0x5ABF ∧
    SameButIgnored 0x9AB0 0x9AB1 ∧ SameButIgnored 0xEA9E 0xEAFE ∧ SameButIgnored 0xEAA1 0xEA01 ∧
    SameButIgnored 0x8126 0x81F6 ∧ SameButIgnored 0x812E 0x810E := by
  refine ⟨?_, ?_, ?_, ?_, ?_, ?_, ?_, ?_⟩ <;> (unfold SameButIgnored; decide)

theorem witness_IgnoredBitsChangeNothing_decode :
    decodeWord 0x8126 = .ok (.shr 1 2) ∧ decodeWord 0x81F6 = .ok (.shr 1 15) := by decide

/-- The three ranges of pc at their ends, and a word of each outcome at the last address. -/
theorem witness_StepProcedure :
    0x1000 ≤ ({ State.reset with pc := 0x1000 } : State).pc.toNat ∧
    ({ State.reset with pc := 0xFFF } : State).pc.toNat = 0xFFF ∧ (at_ 0xFFE 0xF015).pc.toNat ≤ 0xFFE ∧
    ((((at_ 0xFFE 0xF015).mem.read 0xFFE).setWidth 16 <<< 8) ||| ((at_ 0xFFE 0xF015).mem.read 0xFFF).setWidth 16 : Word) =
      0xF015 ∧ decodeWord 0xF015 = .ok (.ldDtVx 0) ∧ decodeWord 0x8008 = .error (.unknownFamily8 0x8008) := by
  decide +kernel

/-- The clauses on DT, ST, dirty and draws: instructions that change each. -/
theorem witness_StepProcedure_changes :
    (exec (.ldDtVx 0) (regs [(0, 1)]) = .next (after (.ldDtVx 0) (regs [(0, 1)])) ∧
      (after (.ldDtVx 0) (regs [(0, 1)])).dt ≠ (regs [(0, 1)]).dt) ∧
    (exec (.ldStVx 0) (regs [(0, 1)]) = .next (after (.ldStVx 0) (regs [(0, 1)])) ∧
      (after (.ldStVx 0) (regs [(0, 1)])).st ≠ (regs [(0, 1)]).st) ∧
    (exec (.cls 0) State.reset = .next (after (.cls 0) State.reset) ∧
      (after (.cls 0) State.reset).dirty ≠ State.reset.dirty) ∧
    (exec (.rnd 0 0xFF) State.reset = .next (after (.rnd 0 0xFF) State.reset)) :=
  ⟨⟨rfl, by decide +kernel⟩, ⟨rfl, by decide +kernel⟩, ⟨rfl, by decide +kernel⟩, rfl⟩

theorem witness_EveryInstructionWritesOnlyItsOwn :
    exec (.storeRegs 15) { State.reset with i := 0xFF0 } = .next (after (.storeRegs 15) { State.reset with i := 0xFF0 }) ∧
    exec (.jp 0xFFF) State.reset = .next (after (.jp 0xFFF) State.reset) := ⟨rfl, rfl⟩

theorem witness_PcAfterEveryInstruction :
    exec (.jpV0 0xFFF) (regs [(0, 0xFF)]) = .next (after (.jpV0 0xFFF) (regs [(0, 0xFF)])) ∧
    step { State.reset with pc := 0x1000 } = .fault (.outOfBoundsAddress 0x1000 0x1000 none) := ⟨rfl, rfl⟩

/-- A fault of the fetch and one that a Load can end; operations of each allowed kind. -/
theorem witness_FaultRepeatsUntilLoadOrReset :
    step { State.reset with pc := 0x1000 } = .fault (.outOfBoundsAddress 0x1000 0x1000 none) ∧
    step (at_ 0xFFE 0x8008) = .fault (.unknownOpcode 0x8008 0xFFE) ∧ wellFormed (.ldImm 0xA 0x02) = true ∧
    ∀ op ∈ [HostOp.setKeys (Vector.replicate 16 true), .setKey 15 false, .step, .tick 2],
      op ≠ .reset ∧ ∀ bytes base, op ≠ .load bytes base :=
  ⟨rfl, rfl, by decide, by simp⟩

/-- Of FaultsOfEveryInstruction: a faulting state of each instruction that can fault. -/
theorem witness_FaultsOfEveryInstruction :
    State.reset.stack = [] ∧
    (({ State.reset with stackDepth := some 0 } : State).stackDepth = some 0 ∧
      0 ≤ ({ State.reset with stackDepth := some 0 } : State).stack.length) ∧
    15 < (getV (regs [(1, 0x10)]) 1).toNat ∧
    0xFFF < ({ State.reset with i := 0xFFF } : State).i.toNat + 2 - 1 ∧
    0xFFF < ({ State.reset with i := 0xFFE } : State).i.toNat + 2 ∧
    0xFFF < ({ State.reset with i := 0xFF1 } : State).i.toNat + 15 := by decide +kernel

/-- The clauses of the jumps: a jump to itself, and the boundary targets. -/
theorem witness_JumpSetsPc : (0x200 : BitVec 12).toNat = State.reset.pc.toNat := by decide +kernel
theorem witness_JumpWithOffsetAddsV0 :
    0xFFE < (0xFFF : BitVec 12).toNat + (getV State.reset 0).toNat ∧
    0xFFE < (0xFFF : BitVec 12).toNat + (getV (regs [(0, 0xFF)]) 0).toNat := by decide +kernel

theorem witness_CallPushesItsAddress :
    (∀ d, State.reset.stackDepth = some d → State.reset.stack.length < d) ∧
    (∀ d, ({ State.reset with stackDepth := some 1 } : State).stackDepth = some d →
      ({ State.reset with stackDepth := some 1 } : State).stack.length < d) :=
  ⟨fun _ h => (by cases h), fun d h => (by cases h; decide)⟩

theorem witness_ReturnPopsAndAddsTwo :
    ({ State.reset with stack := [0x200, 0x24A] } : State).stack = [0x200] ++ [0x24A] := rfl

theorem witness_ReturnLandsPastItsCall :
    exec (.call 0x300) State.reset = .next (after (.call 0x300) State.reset) ∧
    (after (.call 0x300) State.reset).stack = [0x200] := ⟨rfl, by decide +kernel⟩

/-- Both outcomes of each skip at the last address. -/
theorem witness_SkipsOnImmediate :
    ({ State.reset with pc := 0xFFE } : State).pc = 0xFFE ∧ getV { State.reset with pc := 0xFFE } 1 = 0 ∧
    getV { State.reset with pc := 0xFFE } 1 ≠ 0xFF := by decide +kernel
theorem witness_SkipsOnRegisters :
    getV (regs [(1, 0x33)]) 1 ≠ getV (regs [(1, 0x33)]) 2 ∧ getV (regs [(1, 0x33)]) 2 = getV (regs [(1, 0x33)]) 3 := by
  decide +kernel

/-- For the four statements on two results: a destination that is not VF. -/
theorem witness_arithmetic_not_vf : (14 : Reg) ≠ 15 := by decide

/-- The premise of the fault clause, and an instruction of each kind at the least operand that faults. -/
theorem witness_LoadIndexSetsI :
    (0xFFF : BitVec 12) = 0xFFF ∧ 1 ≤ 1 ∧ (1 : Reg) ≤ 1 ∧ 2 ≤ (2 : BitVec 4).toNat ∧
    exec (.ldI 0xFFF) State.reset = .next (after (.ldI 0xFFF) State.reset) :=
  ⟨rfl, by decide, by decide, by decide, rfl⟩

theorem witness_BcdStoresThreeDigits :
    ({ State.reset with i := 0xFFD } : State).i.toNat + 2 ≤ 0xFFF ∧
    0xFFF < ({ State.reset with i := 0xFFE } : State).i.toNat + 2 := by decide
theorem witness_StoreBlockCopiesRegisters :
    ({ State.reset with i := 0xFF0 } : State).i.toNat + (15 : Reg).val ≤ 0xFFF ∧
    0xFFF < ({ State.reset with i := 0xFF1 } : State).i.toNat + (15 : Reg).val := by decide
theorem witness_LoadBlockCopiesMemory :
    ({ State.reset with i := 0xFFF } : State).i.toNat + (0 : Reg).val ≤ 0xFFF ∧
    0xFFF < ({ State.reset with i := 0xFFF } : State).i.toNat + (1 : Reg).val ∧ (0 : Reg) < 1 := by decide

theorem witness_LoadAfterStoreRestoresRegisters :
    exec (.storeRegs 3) { State.reset with i := 0x400 } = .next (after (.storeRegs 3) { State.reset with i := 0x400 }) ∧
    ({ after (.storeRegs 3) { State.reset with i := 0x400 } with i := 0x400 } : State).mem =
      (after (.storeRegs 3) { State.reset with i := 0x400 }).mem := ⟨rfl, rfl⟩

/-- V-M29 (one byte of the fetched word stored), the same with both stored, and `LD B` storing 01 00 00 over the next word. -/
theorem witness_StoreIsSeenByTheNextFetch :
    let s : State := poke { regs [(0, 0x12), (1, 0xE5)] with i := 0x202 } 0x202 [0x00, 0xE0]
    (exec (.storeRegs 0) s = .next (after (.storeRegs 0) s) ∧ (after (.storeRegs 0) s).pc.toNat ≤ 0xFFE ∧
      decodeWord (wordOfBytes (byteAfterStore s (blockValues s 0) 0x202) (byteAfterStore s (blockValues s 0) 0x203)) =
        .ok (.jp 0x2E0)) ∧
    (exec (.storeRegs 1) s = .next (after (.storeRegs 1) s) ∧
      decodeWord (wordOfBytes (byteAfterStore s (blockValues s 1) 0x202) (byteAfterStore s (blockValues s 1) 0x203)) =
        .ok (.jp 0x2E5)) :=
  ⟨⟨rfl, by decide +kernel, by decide +kernel⟩, rfl, by decide +kernel⟩
theorem witness_StoreIsSeenByTheNextFetch_digits :
    let s : State := { regs [(1, 100)] with i := 0x202 }
    exec (.ldB 1) s = .next (after (.ldB 1) s) ∧ (after (.ldB 1) s).pc.toNat ≤ 0xFFE ∧
    decodeWord (wordOfBytes (byteAfterStore s (digits (getV s 1)) 0x202) (byteAfterStore s (digits (getV s 1)) 0x203)) =
      .ok (.cls 0x10) := ⟨rfl, by decide +kernel, by decide +kernel⟩

theorem witness_DrawXorsTheSprite :
    ((0 : BitVec 4) = 0) ∧ ({ State.reset with i := 0xFF1 } : State).i.toNat + (15 : BitVec 4).toNat - 1 ≤ 0xFFF := by
  decide
/-- Both clauses on VF: a cell going from 1 to 0, and none. -/
theorem witness_DrawXorsTheSprite_collision :
    let s : State := { State.reset with fb := flipPixel blankScreen 0 0 }
    pixel s.fb 0 0 = true ∧ pixel (after (.drw 1 2 1) s).fb 0 0 = false := by decide +kernel
theorem witness_DrawTwiceRestoresTheScreen :
    (1 : Reg) ≠ 15 ∧ (2 : Reg) ≠ 15 ∧ exec (.drw 1 2 5) State.reset = .next (after (.drw 1 2 5) State.reset) ∧
    exec (.drw 1 2 5) (after (.drw 1 2 5) State.reset) = .next (after (.drw 1 2 5) (after (.drw 1 2 5) State.reset)) :=
  ⟨by decide, by decide, rfl, rfl⟩

theorem witness_SkipsOnKeyLevel :
    (getV (regs [(1, 15)]) 1).toNat = (15 : Fin 16).val ∧ keyDown (setKey 15 true (regs [(1, 15)])) 15 = true ∧
    keyDown (regs [(1, 15)]) 15 = false := by decide +kernel
theorem witness_AwaitKeyWaitsOrStores :
    (∀ k, keyDown State.reset k = false) ∧ keyDown (setKey 15 true State.reset) 15 = true ∧
    ∀ j, j < 15 → keyDown (setKey 15 true State.reset) j = false := by decide +kernel
theorem witness_TimerMovesCopy :
    (regs [(1, 1)]).beep = false ∧ getV (regs [(1, 1)]) 1 = 1 ∧ getV (regs [(1, 1)]) 2 = 0 := by decide +kernel

/-- A Tick without a fault, and one that faults at its first Step of two. -/
theorem witness_TickProcedure :
    Host.Core.run core 0 { State.reset with dirty := false, beep := false } = .next State.reset ∧
    step { State.reset with pc := 0x1000 } = .fault (.outOfBoundsAddress 0x1000 0x1000 none) := ⟨rfl, rfl⟩
theorem witness_TickFlagsTellOfThisTick :
    decodeWord (wordAt (at_ 0x200 0x00E0).mem 0x200) = .ok (.cls 0x0E) ∧ 0 < 1 := by decide +kernel

theorem witness_LoadCopiesOrFails :
    4096 < 0x1000 + [(0x77 : Byte)].length ∧ [(0x77 : Byte)] ≠ [] ∧ 0xFFF + [(0x77 : Byte)].length ≤ 4096 := by decide

theorem witness_MachineInv : MachineInv State.reset where
  memWf := rfl
  indexBound := by decide
  pcBound := by decide
  stackEntries := fun _ h => nomatch h
  stackBound := fun _ h => nomatch h
/-- The invariant's premise and a Step, at a state with every clause at its bound. -/
theorem witness_StepKeepsTheInvariant :
    let s : State := { at_ 0xFFE 0x3000 with i := 0xFFF, stack := [0xFFE], stackDepth := some 1 }
    MachineInv s ∧ step s = .next { s with pc := 0x1002 } :=
  ⟨⟨by decide +kernel, by decide +kernel, by decide +kernel, fun a h => by simp at h; subst h; decide,
    fun d h => by cases h; decide⟩, rfl⟩

theorem witness_SelfJumpIsTheEnd :
    (at_ 0xFFE 0x1FFE).pc.toNat ≤ 0xFFE ∧ (wordAt (at_ 0xFFE 0x1FFE).mem 0xFFE).toNat = 0x1000 + 0xFFE := by
  decide +kernel

/-- An instruction of each clause: one that writes none of the replaced parts, the three that write one, and both premises
on the framebuffer. -/
theorem witness_NothingReadsSoundFlagsOrScreen :
    (exec (.ldVxDt 3) State.reset = .next (after (.ldVxDt 3) State.reset) ∧ ∀ x y n, Instr.ldVxDt 3 ≠ .drw x y n) ∧
    (exec (.ldStVx 3) State.reset = .next (after (.ldStVx 3) State.reset) ∧ Part.st ∈ writtenParts (.ldStVx 3)) ∧
    (exec (.cls 0) State.reset = .next (after (.cls 0) State.reset) ∧ Part.screen ∈ writtenParts (.cls 0)) ∧
    (exec (.drw 1 2 5) State.reset = .next (after (.drw 1 2 5) State.reset) ∧ State.reset.fb = State.reset.fb ∧
      Part.dirty ∈ writtenParts (.drw 1 2 5)) :=
  ⟨⟨rfl, by simp⟩, ⟨rfl, by decide⟩, ⟨rfl, by decide⟩, rfl, rfl, by decide⟩

theorem witness_EqualReadsMeanEqualMemory :
    Memory.wf [(0x000, 0x00), (0xFFF, 0x77)] = true ∧ Memory.wf [] = true := by decide

end Sys2Proof.Tests
end

