-- ==== Sys2Proof/Proofs/Encoding.lean ====
section
/-!
PROOFS. The decoder and the encoder are inverse to each other on well-formed instructions
(spec 30_encoding.md R72, R74, R84): first per secondary dispatch, then for the primary dispatch.
-/

namespace Sys2Proof

/-! ## The fields of a word, packed, are the word

The converse of the field lemmas of `Laws/Encoding`: one lemma per format of R72, its premises naming the opcode and the
key or immediate in the low bits. -/

section Repack
variable {w : Word} {op n : BitVec 4} {nn : Byte}

theorem packZ_fields (hop : fieldOp w = 0x0#4) (hn : fieldN w = n) : packZ (fieldU8 w) n = w := by
  apply BitVec.eq_of_toNat_eq
  have hop := congrArg BitVec.toNat hop
  rw [fieldOp_toNat, BitVec.toNat_ofNat] at hop
  rw [packZ_toNat, ← hn, fieldU8_toNat, fieldN_toNat]; omega

theorem packNNN_fields (hop : fieldOp w = op) : packNNN op (fieldNNN w) = w := by
  apply BitVec.eq_of_toNat_eq
  rw [packNNN_toNat, ← hop, fieldOp_toNat, fieldNNN_toNat]; omega

theorem packXNN_fields (hop : fieldOp w = op) (hnn : fieldNN w = nn) : packXNN op (fieldX w) nn = w := by
  apply BitVec.eq_of_toNat_eq
  rw [packXNN_toNat, ← hop, ← hnn, fieldOp_toNat, fieldX_val, fieldNN_toNat]; omega

theorem packXYN_fields (hop : fieldOp w = op) (hn : fieldN w = n) :
    packXYN op (fieldX w) (fieldY w) n = w := by
  apply BitVec.eq_of_toNat_eq
  rw [packXYN_toNat, ← hop, ← hn, fieldOp_toNat, fieldX_val, fieldY_val, fieldN_toNat]; omega

theorem packXUN_fields (hop : fieldOp w = op) (hn : fieldN w = n) :
    packXUN op (fieldX w) (fieldU4 w) n = w := by
  apply BitVec.eq_of_toNat_eq
  rw [packXUN_toNat, ← hop, ← hn, fieldOp_toNat, fieldX_val, fieldU4_toNat, fieldN_toNat]; omega

end Repack

/-! ## The primary dispatch into the families with a secondary one -/

section Families
variable {w : Word}

theorem decodeWord_of_family0 (h : fieldOp w = 0x0#4) : decodeWord w = .ok (decodeFamily0 w) := by
  rw [decodeWord, h]; rfl

theorem decodeWord_of_family8 (h : fieldOp w = 0x8#4) : decodeWord w = decodeFamily8 w := by
  rw [decodeWord, h]; rfl

theorem decodeWord_of_familyE (h : fieldOp w = 0xE#4) : decodeWord w = decodeFamilyE w := by
  rw [decodeWord, h]; rfl

theorem decodeWord_of_familyF (h : fieldOp w = 0xF#4) : decodeWord w = decodeFamilyF w := by
  rw [decodeWord, h]; rfl

end Families

/-! ## The words of `SYS` -/

theorem wellFormed_sys_iff {nnn : BitVec 12} :
    wellFormed (.sys nnn) = true ↔ nnn.extractLsb' 0 4 ≠ 0x0#4 ∧ nnn.extractLsb' 0 4 ≠ 0xE#4 := by
  simp only [wellFormed, Bool.and_eq_true, bne_iff_ne]

theorem lowNibble_fieldNNN (w : Word) : (fieldNNN w).extractLsb' 0 4 = fieldN w := by
  rw [← fieldN_packNNN (fieldOp w), packNNN_fields rfl]

/-- Family 0x0 reads `SYS` exactly where `CLS` and `RET` leave the low nibble to it (R75, R100). -/
theorem decodeFamily0_packNNN {nnn : BitVec 12} (h : wellFormed (.sys nnn) = true) :
    decodeFamily0 (packNNN 0x0#4 nnn) = .sys nnn := by
  obtain ⟨hcls, hret⟩ := wellFormed_sys_iff.mp h
  unfold decodeFamily0
  rw [fieldN_packNNN, fieldNNN_packNNN]
  split
  · contradiction
  · contradiction
  · rfl

/-! ## Decoding an encoded instruction -/

/-- Settles O1: the fields of a packed word are the packed ones, so the dispatch of the decoder finds the row that the
encoder used. Only `SYS` needs to be well formed. -/
theorem decodeUndoesEncode : Obligations.DecodeUndoesEncode := by
  unfold Obligations.DecodeUndoesEncode
  intro i hwf
  cases i
  case cls | ret => simp [encode, decodeWord_of_family0, decodeFamily0]
  case sys => rw [encode, decodeWord_of_family0 (fieldOp_packNNN _ _), decodeFamily0_packNNN hwf]
  case ldReg | orReg | andReg | xorReg | addReg | subReg | shr | subnReg | shl =>
    simp [encode, decodeWord_of_family8, decodeFamily8]
  case skp | sknp => simp [encode, decodeWord_of_familyE, decodeFamilyE]
  case ldVxDt | ldVxK | ldDtVx | ldStVx | addI | ldF | ldB | storeRegs | loadRegs =>
    simp [encode, decodeWord_of_familyF, decodeFamilyF]
  -- the families with one row each
  case jp | call | ldI | jpV0 => simp [encode, decodeWord]
  case seImm | sneImm | ldImm | addImm | rnd => simp [encode, decodeWord]
  case seReg | sneReg | drw => simp [encode, decodeWord]

/-! ## Encoding a decoded word -/

section Secondary
variable {w : Word} {i : Instr}

theorem encode_decodeFamily0 (hop : fieldOp w = 0x0#4) :
    encode (decodeFamily0 w) = w ∧ wellFormed (decodeFamily0 w) = true := by
  unfold decodeFamily0
  split
  · next hn => exact ⟨packZ_fields hop hn, rfl⟩
  · next hn => exact ⟨packZ_fields hop hn, rfl⟩
  · next hcls hret =>
    rw [← lowNibble_fieldNNN] at hcls hret
    exact ⟨packNNN_fields hop, wellFormed_sys_iff.mpr ⟨hcls, hret⟩⟩

theorem encode_of_decodeFamily8 (hop : fieldOp w = 0x8#4) (h : decodeFamily8 w = .ok i) :
    encode i = w ∧ wellFormed i = true := by
  unfold decodeFamily8 at h
  split at h <;> cases h <;> next hn => exact ⟨packXYN_fields hop hn, rfl⟩

theorem encode_of_decodeFamilyE (hop : fieldOp w = 0xE#4) (h : decodeFamilyE w = .ok i) :
    encode i = w ∧ wellFormed i = true := by
  unfold decodeFamilyE at h
  split at h <;> cases h <;> next hn => exact ⟨packXUN_fields hop hn, rfl⟩

theorem encode_of_decodeFamilyF (hop : fieldOp w = 0xF#4) (h : decodeFamilyF w = .ok i) :
    encode i = w ∧ wellFormed i = true := by
  unfold decodeFamilyF at h
  split at h <;> cases h <;> next hnn => exact ⟨packXNN_fields hop hnn, rfl⟩

end Secondary

/-- Settles O2: by the arms of the primary dispatch. Each reads the fields of one format, and those fields, packed with
the opcode and the key that chose the arm, are the word again. -/
theorem encodeUndoesDecode : Obligations.EncodeUndoesDecode := by
  unfold Obligations.EncodeUndoesDecode
  intro w i h
  unfold decodeWord at h
  split at h
  -- families 0x0, 0x8, 0xE, and 0xF, the one nibble that the arms before it leave
  case h_1 hop => cases h; exact encode_decodeFamily0 hop
  case h_9 hop => exact encode_of_decodeFamily8 hop h
  case h_15 hop => exact encode_of_decodeFamilyE hop h
  case h_16 =>
    have hop : fieldOp w = 0xF#4 := by
      simp only [imp_false] at *
      bv_omega
    exact encode_of_decodeFamilyF hop h
  -- format NNN: JP, CALL, LD I, JP V0
  case h_2 hop | h_3 hop | h_11 hop | h_12 hop => cases h; exact ⟨packNNN_fields hop, rfl⟩
  -- format XNN: SE, SNE, LD, ADD with an immediate, RND
  case h_4 hop | h_5 hop | h_7 hop | h_8 hop | h_13 hop => cases h; exact ⟨packXNN_fields hop rfl, rfl⟩
  -- formats XY and XYN: SE and SNE of two registers, DRW
  case h_6 hop | h_10 hop | h_14 hop => cases h; exact ⟨packXYN_fields hop rfl, rfl⟩

end Sys2Proof
end

