-- ==== Sys2Proof/Proofs/Control.lean ====
section
/-!
PROOFS. Control transfer (spec 40_control.md): an instruction that only redirects pc changes nothing else, and a target
past the last word of memory is a fault of the next fetch (20_memory.md R55, 60_exceptions.md R200).
-/

namespace Sys2Proof.Machine

/-! ## A Step whose fetch leaves memory -/

section FetchFaults
variable {s : State}

theorem step_of_fetch_error {f : Fault} (h : fetch s = .error f) : step s = .fault f := by
  rw [step, h]

theorem step_of_memSize_le_pc (h : 0x1000 ≤ s.pc.toNat) :
    step s = .fault (.outOfBoundsAddress s.pc s.pc none) := by
  rcases fetch_cases s with ⟨_, hf⟩ | ⟨hp, _⟩ | ⟨hp, _⟩
  · exact step_of_fetch_error hf
  · omega
  · omega

/-- At 0xFFF the first byte of the word is in memory and the second is not. -/
theorem step_of_pc_eq_last (h : s.pc.toNat = 0xFFF) :
    step s = .fault (.outOfBoundsAddress 0x1000 s.pc none) := by
  rcases fetch_cases s with ⟨hp, _⟩ | ⟨_, hf⟩ | ⟨hp, _⟩
  · omega
  · exact step_of_fetch_error hf
  · omega

end FetchFaults

/-! ## Redirecting pc -/

section Redirect
variable (s : State)

theorem onlyChanges_goTo (a : Word) : OnlyChanges [.pc] s (goTo s a) := by
  intro p hp
  cases p
  case pc => simp at hp
  case regs | keys | mem => exact fun _ => rfl
  case screen => exact fun _ _ => rfl
  all_goals rfl

theorem goTo_pc_self : goTo s s.pc = s := rfl

/-- A skip taken at 0xFFE lands past the end of memory (R104). -/
theorem step_skipIf_true_at_last (h : s.pc = 0xFFE) :
    step (skipIf s true) = .fault (.outOfBoundsAddress 0x1002 0x1002 none) := by
  have hpc : (skipIf s true).pc = 0x1002 := by rw [skipIf_pc, h]; rfl
  rw [step_of_memSize_le_pc (by rw [hpc]; decide), hpc]

/-- What every skip of R104 to R107 does, for a test `c` that succeeds where `p` holds and fails where `q` holds. -/
theorem skipIf_spec {c : Bool} {p q : Prop} (hp : p → c = true) (hq : q → c = false) :
    OnlyChanges [.pc] s (skipIf s c) ∧
    (p → (skipIf s c).pc = s.pc + 4) ∧ (q → (skipIf s c).pc = s.pc + 2) ∧
    (s.pc = 0xFFE → p → step (skipIf s c) = .fault (.outOfBoundsAddress 0x1002 0x1002 none)) := by
  refine ⟨onlyChanges_goTo s _, fun h => ?_, fun h => ?_, fun hpc h => ?_⟩
  · simp [hp h]
  · simp [hq h]
  · rw [hp h]; exact step_skipIf_true_at_last s hpc

end Redirect

/-! ## The instructions -/

section Instructions
variable (s : State)

theorem exec_jp (nnn : BitVec 12) : exec (.jp nnn) s = .next (goTo s (address nnn)) := rfl

theorem exec_seImm (x : Reg) (nn : Byte) : exec (.seImm x nn) s = .next (skipIf s (getV s x == nn)) := rfl

theorem exec_sneImm (x : Reg) (nn : Byte) : exec (.sneImm x nn) s = .next (skipIf s (getV s x != nn)) := rfl

end Instructions

/-- Settles O12: the next state is `goTo s (address nnn)`, whose pc has the value nnn; a jump to its own address goes to
pc itself, and 0xFFF is no place to fetch a word from. -/
theorem jumpSetsPc : Obligations.JumpSetsPc := by
  unfold Obligations.JumpSetsPc
  intro nnn s
  refine ⟨_, exec_jp s nnn, address_toNat nnn, onlyChanges_goTo s _, fun hself => ?_, fun hlast => ?_⟩
  · have hpc : address nnn = s.pc := BitVec.eq_of_toNat_eq (by rw [address_toNat, hself])
    rw [hpc, goTo_pc_self]
  · apply step_of_pc_eq_last
    rw [goTo_pc, address_toNat, hlast]; rfl

/-- Settles O17: both instructions are `skipIf`, on `Vx == nn` and on `Vx != nn`. -/
theorem skipsOnImmediate : Obligations.SkipsOnImmediate := by
  unfold Obligations.SkipsOnImmediate
  intro x nn s
  exact ⟨⟨_, exec_seImm s x nn, skipIf_spec s beq_iff_eq.mpr beq_eq_false_iff_ne.mpr⟩,
    ⟨_, exec_sneImm s x nn, skipIf_spec s bne_iff_ne.mpr bne_eq_false_iff_eq.mpr⟩⟩

end Sys2Proof.Machine
end

