-- ==== Sys2Proof/Proofs/Alu.lean ====
section
/-!
PROOFS. Register load, arithmetic and logic (spec 41_alu.md): an instruction that ends with `finish` writes one register,
advances pc (40_control.md R109) and changes nothing else, whatever value it writes.
-/

namespace Sys2Proof

/-- The word 6xnn as the encoder packs it (R72, R74). -/
theorem encode_ldImm_eq_ofNat (x : Reg) (nn : Byte) :
    encode (.ldImm x nn) = BitVec.ofNat 16 (0x6000 + 256 * x.val + nn.toNat) := by
  have hpack : (encode (.ldImm x nn)).toNat = 6 * 4096 + x.val * 256 + nn.toNat := packXNN_toNat 0x6#4 x nn
  apply BitVec.eq_of_toNat_eq
  rw [hpack, BitVec.toNat_ofNat]; omega

end Sys2Proof

namespace Sys2Proof.Machine

section Finish
variable (s : State) (x : Reg) (r : Byte)

/-! ## Writing one register and advancing -/

theorem getV_advance_setV_same : getV (advance (setV s x r)) x = r := by
  rw [getV_advance, getV_setV, if_pos rfl]

theorem regsSameBut_advance_setV : RegsSameBut [x] s (advance (setV s x r)) := by
  intro y hy
  rw [getV_advance, getV_setV, if_neg (List.ne_of_not_mem_cons hy)]

theorem onlyChanges_advance_setV : OnlyChanges [.regs, .pc] s (advance (setV s x r)) := by
  intro p hp
  cases p
  case regs | pc => simp at hp
  case keys | mem => exact fun _ => rfl
  case screen => exact fun _ _ => rfl
  all_goals rfl

/-- Everything that `finish` does. -/
theorem finish_spec :
    ∃ t, finish s x r = .next t ∧ getV t x = r ∧ t.pc = s.pc + 2 ∧
      RegsSameBut [x] s t ∧ OnlyChanges [.regs, .pc] s t :=
  ⟨_, rfl, getV_advance_setV_same s x r, rfl, regsSameBut_advance_setV s x r,
    onlyChanges_advance_setV s x r⟩

end Finish

/-! ## The instructions -/

theorem exec_ldImm (s : State) (x : Reg) (nn : Byte) : exec (.ldImm x nn) s = finish s x nn := rfl

/-- Settles O19: the word is the one that encodes `LD Vx, nn`, so it decodes to it, and the instruction is `finish` with
the immediate. -/
theorem loadImmediateSetsVx : Obligations.LoadImmediateSetsVx := by
  unfold Obligations.LoadImmediateSetsVx
  intro x nn s
  constructor
  · rw [← encode_ldImm_eq_ofNat]
    exact decodeUndoesEncode (.ldImm x nn) rfl
  · rw [exec_ldImm]
    exact finish_spec s x nn

end Sys2Proof.Machine
end

