-- ==== Sys2Proof/Proofs/Display.lean ====
section
/-!
PROOFS. Display instructions (spec 43_display.md): replacing the framebuffer sets dirty (10_state.md R27), and with the
advance of pc (40_control.md R109) that is all `CLS` does.
-/

namespace Sys2Proof

/-- 00E0 is the canonical word of `CLS`: its ignored bits are 0x0E (R74, R160). -/
theorem encode_cls_canonical : encode (.cls 0x0E) = 0x00E0 := rfl

end Sys2Proof

namespace Sys2Proof.Machine

section ShowScreen
variable (s : State) (fb : Screen)

/-! ## Replacing the framebuffer and advancing -/

theorem onlyChanges_advance_showScreen :
    OnlyChanges [.screen, .dirty, .pc] s (advance (showScreen s fb)) := by
  intro p hp
  cases p
  case screen | dirty | pc => simp at hp
  case regs | keys | mem => exact fun _ => rfl
  all_goals rfl

end ShowScreen

/-! ## The instructions -/

theorem exec_cls (u : BitVec 8) (s : State) :
    exec (.cls u) s = .next (advance (showScreen s blankScreen)) := rfl

/-- Settles O34: 00E0 is the word that encodes `CLS`, so it decodes to it, and `CLS` shows the blank screen, every cell of
which is 0, whatever the framebuffer and dirty were before. -/
theorem clearScreenBlanks : Obligations.ClearScreenBlanks := by
  unfold Obligations.ClearScreenBlanks
  refine ⟨?_, fun u s => ⟨_, exec_cls u s, fun cx cy => ?_, ?_, ?_, ?_⟩⟩
  · rw [← encode_cls_canonical]
    exact decodeUndoesEncode (.cls 0x0E) rfl
  · rw [advance_fb, showScreen_fb, pixel_blankScreen]
  · rw [advance_dirty, showScreen_dirty]
  · rw [advance_pc, showScreen_pc]
  · exact onlyChanges_advance_showScreen s blankScreen

end Sys2Proof.Machine
end

/-!
PROOFS. The Step and the Tick (spec 60_exceptions.md sections 1 and 4): what every executed instruction leaves in the
timers, the two flags and the count of draws (R200), and from it what dirty and beep say after a Tick (R215, R216).
-/

namespace Sys2Proof.Machine

/-! ## Timers, flags and draws after an instruction -/

/-- DT after an instruction executed in `s` (44_keypad_timers.md R174). -/
def dtAfter (i : Instr) (s : State) : Byte :=
  match i with
  | .ldDtVx x => getV s x
  | _ => s.dt

/-- ST after an instruction executed in `s` (44_keypad_timers.md R175). -/
def stAfter (i : Instr) (s : State) : Byte :=
  match i with
  | .ldStVx x => getV s x
  | _ => s.st

/-- Whether an instruction shows the framebuffer, and so sets dirty (10_state.md R27). -/
def showsScreen : Instr → Bool
  | .cls _ => true
  | .drw _ _ _ => true
  | _ => false

/-- How many random bytes an instruction draws (41_alu.md R131). -/
def drawsTaken : Instr → Nat
  | .rnd _ _ => 1
  | _ => 0

section Instructions
variable {i : Instr} {s t : State}

theorem eq_ldDtVx_of_dtAfter_ne (h : dtAfter i s ≠ s.dt) : ∃ x, i = .ldDtVx x := by
  unfold dtAfter at h
  split at h
  · exact ⟨_, rfl⟩
  · contradiction

theorem eq_ldStVx_of_stAfter_ne (h : stAfter i s ≠ s.st) : ∃ x, i = .ldStVx x := by
  unfold stAfter at h
  split at h
  · exact ⟨_, rfl⟩
  · contradiction

theorem showsScreen_iff : showsScreen i = true ↔ (∃ u, i = .cls u) ∨ ∃ x y n, i = .drw x y n := by
  cases i <;> simp [showsScreen]

theorem drawsTaken_of_not_rnd (h : ¬∃ x nn, i = .rnd x nn) : drawsTaken i = 0 := by
  unfold drawsTaken
  split
  · exact absurd ⟨_, _, rfl⟩ h
  · rfl

/-- The timers, the flags and the count of draws in `t` are what `i`, executed in `s`, leaves in them (R200). -/
structure TimersFlagsDraws (i : Instr) (s t : State) : Prop where
  dt : t.dt = dtAfter i s
  st : t.st = stAfter i s
  dirty : t.dirty = (showsScreen i || s.dirty)
  beep : t.beep = s.beep
  draws : t.draws = s.draws + drawsTaken i

theorem exec_next_timersFlagsDraws (h : exec i s = .next t) : TimersFlagsDraws i s t := by
  cases i
  case sys => cases h
  -- always a next state
  case cls | jp | seImm | sneImm | seReg | ldImm | addImm | ldReg | orReg | andReg | xorReg | addReg | subReg | shr
      | subnReg | shl | sneReg | ldI | jpV0 | rnd | ldVxDt | ldDtVx | ldStVx | addI | ldF =>
    obtain rfl := Host.Outcome.next.inj h
    constructor <;> rfl
  -- a test of the state comes first; where it answers a fault, `h` is absurd
  case ret | call | drw | skp | sknp | ldVxK | ldB | storeRegs | loadRegs =>
    simp only [exec, execRet, execCall, execDrw, execSkp, execSknp, execLdVxK, execLdB, execStoreRegs, execLoadRegs,
      finish, outOfMemory, raise] at h
    split at h <;> cases h
    all_goals constructor <;> simp [dtAfter, stAfter, showsScreen, drawsTaken]

end Instructions

/-! ## The Step by its procedure -/

section Step
variable {s : State} {i : Instr}

/-- The word of two bytes as R200 writes it. -/
theorem wordOfBytes_eq_or (hi lo : Byte) : wordOfBytes hi lo = (hi.setWidth 16 <<< 8) ||| lo.setWidth 16 := by
  apply BitVec.eq_of_toNat_eq
  simp (disch := omega) only [wordOfBytes, BitVec.toNat_append, BitVec.toNat_or, BitVec.toNat_shiftLeft,
    BitVec.toNat_setWidth, Nat.shiftLeft_eq, Nat.mod_eq_of_lt]

theorem fetch_of_pc_le (h : s.pc.toNat ≤ 0xFFE) : fetch s = .ok (wordAt s.mem s.pc.toNat) := by
  rcases fetch_cases s with ⟨hp, _⟩ | ⟨hp, _⟩ | ⟨_, hf⟩
  · omega
  · omega
  · exact hf

theorem step_of_decode_error {e : DecodeError} (hp : s.pc.toNat ≤ 0xFFE)
    (h : decodeWord (wordAt s.mem s.pc.toNat) = .error e) :
    step s = .fault (.unknownOpcode (wordAt s.mem s.pc.toNat) s.pc) := by
  simp only [step, fetch_of_pc_le hp, h]

theorem step_of_decode_ok (hp : s.pc.toNat ≤ 0xFFE) (h : decodeWord (wordAt s.mem s.pc.toNat) = .ok i) :
    step s = exec i s := by
  simp only [step, fetch_of_pc_le hp, h]

end Step

/-- Settles O6: pc decides the fetch and the fetched word the rest, and the sentence on DT, ST, dirty, beep and the
draws is read off what the instruction leaves in them. -/
theorem stepProcedure : Obligations.StepProcedure := by
  unfold Obligations.StepProcedure
  intro s
  refine ⟨step_of_memSize_le_pc, step_of_pc_eq_last, fun hp w hw => ?_⟩
  obtain rfl : wordAt s.mem s.pc.toNat = w := by rw [hw, wordAt, wordOfBytes_eq_or]
  refine ⟨fun e he => step_of_decode_error hp he, fun i hi => ⟨step_of_decode_ok hp hi, fun t ht => ?_⟩⟩
  obtain ⟨hdt, hst, hdirty, hbeep, hdraws⟩ := exec_next_timersFlagsDraws ht
  refine ⟨hbeep, fun h => ?_, fun h => ?_, fun h => ?_, ?_, fun h => ?_⟩
  · exact eq_ldDtVx_of_dtAfter_ne (hdt ▸ h)
  · exact eq_ldStVx_of_stAfter_ne (hst ▸ h)
  · exact showsScreen_iff.mp (by by_contra hshow; simp [hdirty, hshow] at h)
  · rintro ⟨x, nn, rfl⟩; exact hdraws
  · rw [hdraws, drawsTaken_of_not_rnd h, Nat.add_zero]

/-! ## What the Steps of a Tick leave in beep and dirty -/

/-- The Step from `s` executes a `CLS` or a `DRW`. -/
def StepShows (s : State) : Prop :=
  ∃ t i, decodeWord (wordAt s.mem s.pc.toNat) = .ok i ∧ step s = .next t ∧
    ((∃ u, i = .cls u) ∨ ∃ x y n, i = .drw x y n)

/-- One of the first `c` Steps from `s` executes a `CLS` or a `DRW`. -/
def ShowsWithin (c : Nat) (s : State) : Prop :=
  ∃ k u, k < c ∧ Host.Core.run core k s = .next u ∧ StepShows u

/-- A run of `k + 1` Steps, its first taken. -/
theorem run_succ_eq_next_iff {M : Host.Core} {k : Nat} {s u : M.State} :
    M.run (k + 1) s = .next u ↔ ∃ t, M.step s = .next t ∧ M.run k t = .next u := by
  rw [Host.Core.run]
  cases M.step s <;> simp

section Steps
variable {s t : State}

/-- A Step leaves beep alone and sets dirty exactly when it executes a `CLS` or a `DRW`. -/
theorem step_next_flags (h : step s = .next t) :
    t.beep = s.beep ∧ (t.dirty = true ↔ s.dirty = true ∨ StepShows s) := by
  obtain ⟨_, i, hdec, hexec⟩ := step_next_cases h
  obtain ⟨-, -, hdirty, hbeep, -⟩ := exec_next_timersFlagsDraws hexec
  have hshows : StepShows s ↔ showsScreen i = true := by
    rw [showsScreen_iff]
    constructor
    · rintro ⟨_, j, hj, -, hshow⟩
      obtain rfl : i = j := Except.ok.inj (hdec.symm.trans hj)
      exact hshow
    · exact fun hshow => ⟨t, i, hdec, h, hshow⟩
  exact ⟨hbeep, by rw [hdirty, hshows, Bool.or_eq_true, or_comm]⟩

theorem stepOp_fst_cases (s : State) :
    (∃ t, step s = .next t ∧ (stepOp s).1 = t) ∨ ((∀ t, step s ≠ .next t) ∧ (stepOp s).1 = s) := by
  unfold stepOp
  split
  next t ht => exact .inl ⟨t, ht, rfl⟩
  next f hf => exact .inr ⟨by simp [hf], rfl⟩
  next r hr => exact .inr ⟨by simp [hr], rfl⟩

theorem showsWithin_succ_iff {c : Nat} :
    ShowsWithin (c + 1) s ↔ StepShows s ∨ ∃ t, step s = .next t ∧ ShowsWithin c t := by
  constructor
  · rintro ⟨k, u, hk, hrun, hu⟩
    cases k with
    | zero => cases hrun; exact .inl hu
    | succ k =>
      obtain ⟨t, ht, hrun⟩ := run_succ_eq_next_iff.mp hrun
      exact .inr ⟨t, ht, k, u, by omega, hrun, hu⟩
  · rintro (hs | ⟨t, ht, k, u, hk, hrun, hu⟩)
    · exact ⟨0, s, by omega, rfl, hs⟩
    · exact ⟨k + 1, u, by omega, run_succ_eq_next_iff.mpr ⟨t, ht, hrun⟩, hu⟩

theorem not_showsWithin_of_stopped (h : ∀ t, step s ≠ .next t) (c : Nat) : ¬ShowsWithin c s := by
  cases c with
  | zero => rintro ⟨k, _, hk, -⟩; omega
  | succ c =>
    rw [showsWithin_succ_iff]
    rintro (⟨t, -, -, ht, -⟩ | ⟨t, ht, -⟩) <;> exact h t ht

theorem tickSteps_beep (c : Nat) (s : State) (r : OpResult) : (tickSteps c s r).1.beep = s.beep := by
  induction c generalizing s r with
  | zero => rfl
  | succ c ih =>
    rw [tickSteps_succ, ih]
    rcases stepOp_fst_cases s with ⟨t, ht, heq⟩ | ⟨-, heq⟩
    · rw [heq, (step_next_flags ht).1]
    · rw [heq]

/-- Dirty after the Steps of a Tick: a Step that stopped is repeated in the same state, and stops again. -/
theorem tickSteps_dirty_iff (c : Nat) (s : State) (r : OpResult) :
    (tickSteps c s r).1.dirty = true ↔ s.dirty = true ∨ ShowsWithin c s := by
  induction c generalizing s r with
  | zero => simp [tickSteps, ShowsWithin]
  | succ c ih =>
    rw [tickSteps_succ, ih]
    rcases stepOp_fst_cases s with ⟨t, ht, heq⟩ | ⟨hstop, heq⟩
    · rw [heq, (step_next_flags ht).2, showsWithin_succ_iff, or_assoc]
      simp [ht]
    · rw [heq]
      simp only [not_showsWithin_of_stopped hstop]

end Steps

/-- Settles O42: a Tick clears both flags, its Steps leave beep clear and set dirty as they execute a `CLS` or a `DRW`,
and its end sets beep and leaves dirty. -/
theorem tickFlagsTellOfThisTick : Obligations.TickFlagsTellOfThisTick := by
  unfold Obligations.TickFlagsTellOfThisTick
  intro c s
  constructor
  · simp [tick, tickSteps_beep]
  · have hdirty : (tick c s).1.dirty = true ↔ ShowsWithin c (tickStart s) := by
      simp [tick, tickSteps_dirty_iff]
    rw [hdirty]
    constructor
    · rintro ⟨k, u, hk, hrun, t, i, hshows⟩
      exact ⟨k, u, t, i, hk, hrun, hshows⟩
    · rintro ⟨k, u, t, i, hk, hrun, hshows⟩
      exact ⟨k, u, hk, hrun, t, i, hshows⟩

end Sys2Proof.Machine

/-!
PROOFS. What each instruction does, said once (spec 10_state.md section 6, 40_control.md section 1, 60_exceptions.md
section 2): frames of the state's updates, the answer of each instruction that tests the state first, and from them who
writes what, the pc after an instruction and its faults.
-/

namespace Sys2Proof.Machine

/-! ## Frames -/

section Frames
variable {ps qs : List Part} {rs : List Reg} {s t u : State}

theorem Part.Same.refl (p : Part) (s : State) : p.Same s s := by
  cases p <;> simp [Part.Same]

theorem Part.Same.trans {p : Part} (h : p.Same s t) (h' : p.Same t u) : p.Same s u := by
  cases p
  case regs | keys | mem => exact fun a => (h' a).trans (h a)
  case screen => exact fun cx cy => (h' cx cy).trans (h cx cy)
  all_goals exact Eq.trans h' h

theorem OnlyChanges.refl (ps : List Part) (s : State) : OnlyChanges ps s s := fun p _ => .refl p s

theorem OnlyChanges.trans (h : OnlyChanges ps s t) (h' : OnlyChanges qs t u) : OnlyChanges (ps ++ qs) s u := by
  intro p hp
  obtain ⟨hps, hqs⟩ := not_or.mp (List.mem_append.not.mp hp)
  exact (h p hps).trans (h' p hqs)

theorem OnlyChanges.mono (h : OnlyChanges ps s t) (hsub : ps ⊆ qs) : OnlyChanges qs s t :=
  fun p hp => h p fun hmem => hp (hsub hmem)

theorem RegsSameBut.trans {rs' : List Reg} (h : RegsSameBut rs s t) (h' : RegsSameBut rs' t u) :
    RegsSameBut (rs ++ rs') s u := by
  intro r hr
  obtain ⟨hrs, hrs'⟩ := not_or.mp (List.mem_append.not.mp hr)
  exact (h' r hrs').trans (h r hrs)

/-- Where the registers are no changed part, every register is unchanged. -/
theorem OnlyChanges.regsSameBut (h : OnlyChanges ps s t) (hregs : .regs ∉ ps) (rs : List Reg) :
    RegsSameBut rs s t := fun r _ => h .regs hregs r

end Frames

/-! ## Frames of the updates

A part that an update does not write is the same field of the same state. -/

section Updates
variable (s : State)

theorem onlyChanges_setV (x : Reg) (b : Byte) : OnlyChanges [.regs] s (setV s x b) := by
  intro p hp
  cases p <;> simp_all [Part.Same, keyDown]

theorem onlyChanges_loadBlock (x : Reg) : OnlyChanges [.regs] s (loadBlock s x) := by
  intro p hp
  cases p <;> simp_all [Part.Same, keyDown]

theorem onlyChanges_setI (a : Word) : OnlyChanges [.index] s (setI s a) := by
  intro p hp
  cases p <;> simp_all [Part.Same, keyDown]

theorem onlyChanges_setDT (b : Byte) : OnlyChanges [.dt] s (setDT s b) := by
  intro p hp
  cases p <;> simp_all [Part.Same, keyDown]

theorem onlyChanges_setST (b : Byte) : OnlyChanges [.st] s (setST s b) := by
  intro p hp
  cases p <;> simp_all [Part.Same, keyDown]

theorem onlyChanges_setMem (m : Memory) : OnlyChanges [.mem] s (setMem s m) := by
  intro p hp
  cases p <;> simp_all [Part.Same, keyDown]

theorem onlyChanges_push (a : Word) : OnlyChanges [.stack] s (push s a) := by
  intro p hp
  cases p <;> simp_all [Part.Same, keyDown]

theorem onlyChanges_dropTop : OnlyChanges [.stack] s (dropTop s) := by
  intro p hp
  cases p <;> simp_all [Part.Same, keyDown]

theorem onlyChanges_countDraw : OnlyChanges [.draws] s (countDraw s) := by
  intro p hp
  cases p <;> simp_all [Part.Same, keyDown]

theorem onlyChanges_showScreen (fb : Screen) : OnlyChanges [.screen, .dirty] s (showScreen s fb) := by
  intro p hp
  cases p <;> simp_all [Part.Same, keyDown]

theorem onlyChanges_setFlag (c : Bool) : OnlyChanges [.regs] s (setFlag s c) := onlyChanges_setV s vf _

theorem onlyChanges_bumpI (x : Reg) : OnlyChanges [.index] s (bumpI s x) := onlyChanges_setI s _

theorem onlyChanges_advance : OnlyChanges [.pc] s (advance s) := onlyChanges_goTo s _

theorem onlyChanges_skipIf (c : Bool) : OnlyChanges [.pc] s (skipIf s c) := onlyChanges_goTo s _

theorem regsSameBut_setV (x : Reg) (b : Byte) : RegsSameBut [x] s (setV s x b) := by
  intro r hr
  rw [getV_setV, if_neg (List.ne_of_not_mem_cons hr)]

theorem regsSameBut_loadBlock (x : Reg) :
    RegsSameBut ((List.finRange 16).filter fun k => k ≤ x) s (loadBlock s x) := by
  intro r hr
  rw [getV_loadBlock, if_neg (by simpa using hr)]

end Updates

/-! ## Answers of the instructions that test the state first

The others are their next state, by definition. -/

section Answers
variable {s t : State} {f : Fault}

theorem exec_ret_next_iff {u : BitVec 8} :
    exec (.ret u) s = .next t ↔ ∃ a, top s = some a ∧ t = goTo (dropTop s) (a + 2) := by
  simp only [exec, execRet, raise]
  cases top s <;> simp [eq_comm]

theorem exec_ret_fault_iff {u : BitVec 8} :
    exec (.ret u) s = .fault f ↔ top s = none ∧ f = .stackUnderflow s.pc := by
  simp only [exec, execRet, raise]
  cases top s <;> simp [eq_comm]

theorem exec_call_next_iff {nnn : BitVec 12} :
    exec (.call nnn) s = .next t ↔ stackFull s = false ∧ t = goTo (push s s.pc) (address nnn) := by
  simp only [exec, execCall, raise]
  cases stackFull s <;> simp [eq_comm]

theorem exec_call_fault_iff {nnn : BitVec 12} :
    exec (.call nnn) s = .fault f ↔ stackFull s = true ∧ f = .stackOverflow s.pc := by
  simp only [exec, execCall, raise]
  cases stackFull s <;> simp [eq_comm]

theorem exec_skp_next_iff {x : Reg} {u : BitVec 4} :
    exec (.skp x u) s = .next t ↔ ∃ p, keyAt s (getV s x) = some p ∧ t = skipIf s p := by
  simp only [exec, execSkp, raise]
  cases keyAt s (getV s x) <;> simp [eq_comm]

theorem exec_skp_fault_iff {x : Reg} {u : BitVec 4} :
    exec (.skp x u) s = .fault f ↔
      keyAt s (getV s x) = none ∧ f = .keyIndexOutOfRange (getV s x) s.pc (encode (.skp x u)) := by
  simp only [exec, execSkp, raise]
  cases keyAt s (getV s x) <;> simp [eq_comm]

theorem exec_sknp_next_iff {x : Reg} {u : BitVec 4} :
    exec (.sknp x u) s = .next t ↔ ∃ p, keyAt s (getV s x) = some p ∧ t = skipIf s (!p) := by
  simp only [exec, execSknp, raise]
  cases keyAt s (getV s x) <;> simp [eq_comm]

theorem exec_sknp_fault_iff {x : Reg} {u : BitVec 4} :
    exec (.sknp x u) s = .fault f ↔
      keyAt s (getV s x) = none ∧ f = .keyIndexOutOfRange (getV s x) s.pc (encode (.sknp x u)) := by
  simp only [exec, execSknp, raise]
  cases keyAt s (getV s x) <;> simp [eq_comm]

theorem exec_ldVxK_next_iff {x : Reg} :
    exec (.ldVxK x) s = .next t ↔
      (leastKey s = none ∧ t = s) ∨
      ∃ k, leastKey s = some k ∧ t = advance (setV s x (BitVec.ofNat 8 k.val)) := by
  simp only [exec, execLdVxK, finish]
  cases leastKey s <;> simp [eq_comm]

theorem exec_ldVxK_ne_fault {x : Reg} : exec (.ldVxK x) s ≠ .fault f := by
  simp only [exec, execLdVxK, finish]
  cases leastKey s <;> simp

theorem exec_drw_next_iff {x y : Reg} {n : BitVec 4} :
    exec (.drw x y n) s = .next t ↔ spriteInMemory s n.toNat = true ∧
      t = advance (setFlag
        (showScreen s (drawSprite s (getV s x).toNat (getV s y).toNat n.toNat).1)
        (drawSprite s (getV s x).toNat (getV s y).toNat n.toNat).2) := by
  simp only [exec, execDrw, outOfMemory, raise]
  cases spriteInMemory s n.toNat <;> simp [eq_comm]

theorem exec_drw_fault_iff {x y : Reg} {n : BitVec 4} :
    exec (.drw x y n) s = .fault f ↔ spriteInMemory s n.toNat = false ∧
      f = .outOfBoundsAddress 0x1000 s.pc (some (encode (.drw x y n))) := by
  simp only [exec, execDrw, outOfMemory, raise]
  cases spriteInMemory s n.toNat <;> simp [eq_comm]

theorem exec_ldB_next_iff {x : Reg} :
    exec (.ldB x) s = .next t ↔ inMemory s 2 = true ∧
      t = advance (setMem s (s.mem.writeBytes (effAddr s 0) (digits (getV s x)))) := by
  simp only [exec, execLdB, outOfMemory, raise]
  cases inMemory s 2 <;> simp [eq_comm]

theorem exec_ldB_fault_iff {x : Reg} :
    exec (.ldB x) s = .fault f ↔ inMemory s 2 = false ∧
      f = .outOfBoundsAddress 0x1000 s.pc (some (encode (.ldB x))) := by
  simp only [exec, execLdB, outOfMemory, raise]
  cases inMemory s 2 <;> simp [eq_comm]

theorem exec_storeRegs_next_iff {x : Reg} :
    exec (.storeRegs x) s = .next t ↔ inMemory s x.val = true ∧
      t = advance (bumpI (setMem s (s.mem.writeBytes (effAddr s 0) (blockValues s x))) x) := by
  simp only [exec, execStoreRegs, outOfMemory, raise]
  cases inMemory s x.val <;> simp [eq_comm]

theorem exec_storeRegs_fault_iff {x : Reg} :
    exec (.storeRegs x) s = .fault f ↔ inMemory s x.val = false ∧
      f = .outOfBoundsAddress 0x1000 s.pc (some (encode (.storeRegs x))) := by
  simp only [exec, execStoreRegs, outOfMemory, raise]
  cases inMemory s x.val <;> simp [eq_comm]

theorem exec_loadRegs_next_iff {x : Reg} :
    exec (.loadRegs x) s = .next t ↔ inMemory s x.val = true ∧ t = advance (bumpI (loadBlock s x) x) := by
  simp only [exec, execLoadRegs, outOfMemory, raise]
  cases inMemory s x.val <;> simp [eq_comm]

theorem exec_loadRegs_fault_iff {x : Reg} :
    exec (.loadRegs x) s = .fault f ↔ inMemory s x.val = false ∧
      f = .outOfBoundsAddress 0x1000 s.pc (some (encode (.loadRegs x))) := by
  simp only [exec, execLoadRegs, outOfMemory, raise]
  cases inMemory s x.val <;> simp [eq_comm]

theorem exec_ne_refused (i : Instr) (s : State) (r : Refusal) : exec i s ≠ .refused r := by
  cases i
  case ret | call | drw | skp | sknp | ldVxK | ldB | storeRegs | loadRegs =>
    simp only [exec, execRet, execCall, execDrw, execSkp, execSknp, execLdVxK, execLdB, execStoreRegs, execLoadRegs,
      finish, outOfMemory, raise]
    split <;> simp
  all_goals nofun

end Answers

/-! ## Tests of the state, as arithmetic -/

section Tests
variable {s : State}

theorem inMemory_eq_false_iff {k : Nat} : inMemory s k = false ↔ 0xFFF < s.i.toNat + k := by
  rw [← Bool.not_eq_true, inMemory_iff, Nat.not_le]

theorem spriteInMemory_iff {n : Nat} : spriteInMemory s n = true ↔ n = 0 ∨ s.i.toNat + n - 1 ≤ 0xFFF := by
  rw [spriteInMemory, Bool.or_eq_true, beq_iff_eq, inMemory_iff]; omega

theorem spriteInMemory_eq_false_iff {n : Nat} :
    spriteInMemory s n = false ↔ 0 < n ∧ 0xFFF < s.i.toNat + n - 1 := by
  rw [← Bool.not_eq_true, spriteInMemory_iff]; omega

theorem top_eq_some_iff {a : Word} : top s = some a ↔ ∃ rest, s.stack = rest ++ [a] := by
  rw [top, List.getLast?_eq_some_iff]

theorem keyAt_eq_some_iff {b : Byte} {p : Bool} :
    keyAt s b = some p ↔ ∃ k : Fin 16, k.val = b.toNat ∧ keyDown s k = p := by
  unfold keyAt
  split
  next h => simp [Fin.exists_iff, h]
  next h => simp only [reduceCtorEq, false_iff]; rintro ⟨k, hk, -⟩; omega

theorem keyAt_eq_none_iff {b : Byte} : keyAt s b = none ↔ 15 < b.toNat := by
  unfold keyAt
  split <;> simp <;> omega

end Tests
/-! ## Who writes what (10_state.md R33) -/

section Writes
variable {i : Instr} {s t : State}

theorem onlyChanges_finishFlag (s : State) (x : Reg) (r : Byte) (c : Bool) :
    OnlyChanges [.regs, .pc] s (advance (setFlag (setV s x r) c)) :=
  (((onlyChanges_setV s x r).trans (onlyChanges_setFlag _ c)).trans (onlyChanges_advance _)).mono (by simp)

theorem regsSameBut_finishFlag (s : State) (x : Reg) (r : Byte) (c : Bool) :
    RegsSameBut [x, vf] s (advance (setFlag (setV s x r) c)) :=
  (regsSameBut_setV s x r).trans (regsSameBut_setV _ vf _)

/-- Every instruction writes only the parts that the table gives it. -/
theorem exec_next_onlyChanges (h : exec i s = .next t) : OnlyChanges (writtenParts i) s t := by
  cases i
  case sys => cases h
  case ret =>
    obtain ⟨a, -, rfl⟩ := exec_ret_next_iff.mp h
    exact (onlyChanges_dropTop s).trans (onlyChanges_goTo _ _)
  case call =>
    obtain ⟨-, rfl⟩ := exec_call_next_iff.mp h
    exact (onlyChanges_push s _).trans (onlyChanges_goTo _ _)
  case skp =>
    obtain ⟨p, -, rfl⟩ := exec_skp_next_iff.mp h
    exact onlyChanges_skipIf s _
  case sknp =>
    obtain ⟨p, -, rfl⟩ := exec_sknp_next_iff.mp h
    exact onlyChanges_skipIf s _
  case ldVxK =>
    rcases exec_ldVxK_next_iff.mp h with ⟨-, rfl⟩ | ⟨k, -, rfl⟩
    · exact .refl _ _
    · exact onlyChanges_advance_setV s _ _
  case drw =>
    obtain ⟨-, rfl⟩ := exec_drw_next_iff.mp h
    exact (((onlyChanges_showScreen s _).trans (onlyChanges_setFlag _ _)).trans (onlyChanges_advance _)).mono
      (by simp [writtenParts])
  case ldB =>
    obtain ⟨-, rfl⟩ := exec_ldB_next_iff.mp h
    exact (onlyChanges_setMem s _).trans (onlyChanges_advance _)
  case storeRegs =>
    obtain ⟨-, rfl⟩ := exec_storeRegs_next_iff.mp h
    exact ((onlyChanges_setMem s _).trans (onlyChanges_bumpI _ _)).trans (onlyChanges_advance _)
  case loadRegs =>
    obtain ⟨-, rfl⟩ := exec_loadRegs_next_iff.mp h
    exact ((onlyChanges_loadBlock s _).trans (onlyChanges_bumpI _ _)).trans (onlyChanges_advance _)
  all_goals obtain rfl := Host.Outcome.next.inj h
  case cls => exact onlyChanges_advance_showScreen s _
  case jp | jpV0 | seImm | sneImm | seReg | sneReg => exact onlyChanges_goTo s _
  case ldImm | addImm | ldReg | orReg | andReg | xorReg | ldVxDt => exact onlyChanges_advance_setV s _ _
  case addReg | subReg | shr | subnReg | shl => exact onlyChanges_finishFlag s _ _ _
  case rnd =>
    exact ((onlyChanges_countDraw s).trans (onlyChanges_advance_setV _ _ _)).mono (by simp [writtenParts])
  case ldI | ldF => exact (onlyChanges_setI s _).trans (onlyChanges_advance _)
  case addI => exact ((onlyChanges_setI s _).trans (onlyChanges_setFlag _ _)).trans (onlyChanges_advance _)
  case ldDtVx => exact (onlyChanges_setDT s _).trans (onlyChanges_advance _)
  case ldStVx => exact (onlyChanges_setST s _).trans (onlyChanges_advance _)

/-- Every instruction writes only the registers that the table gives it. -/
theorem exec_next_regsSameBut (h : exec i s = .next t) : RegsSameBut (writtenRegs i) s t := by
  have hparts := exec_next_onlyChanges h
  cases i
  case ldVxK =>
    rcases exec_ldVxK_next_iff.mp h with ⟨-, rfl⟩ | ⟨k, -, rfl⟩
    · exact fun _ _ => rfl
    · exact regsSameBut_advance_setV s _ _
  case drw =>
    obtain ⟨-, rfl⟩ := exec_drw_next_iff.mp h
    exact regsSameBut_setV (showScreen s _) vf _
  case loadRegs =>
    obtain ⟨-, rfl⟩ := exec_loadRegs_next_iff.mp h
    exact regsSameBut_loadBlock s _
  case ldImm | addImm | ldReg | orReg | andReg | xorReg | rnd | ldVxDt =>
    obtain rfl := Host.Outcome.next.inj h
    exact regsSameBut_advance_setV _ _ _
  case addReg | subReg | shr | subnReg | shl =>
    obtain rfl := Host.Outcome.next.inj h
    exact regsSameBut_finishFlag s _ _ _
  case addI =>
    obtain rfl := Host.Outcome.next.inj h
    exact regsSameBut_setV (setI s _) vf _
  -- the registers are none of the parts that the others write
  all_goals exact hparts.regsSameBut (by simp [writtenParts]) _

end Writes

/-! ## What is stored -/

section Stores
variable {i : Instr} {s t : State}

/-- The bytes that an instruction stores from I up (42_index_memory.md R143, R144). -/
def storedBytes (i : Instr) (s : State) : List Byte :=
  match i with
  | .ldB x => digits (getV s x)
  | .storeRegs x => blockValues s x
  | _ => []

/-- The bytes stored lie at the addresses that the table gives the instruction. -/
theorem storedAddrs_eq (i : Instr) (s : State) :
    storedAddrs i s = (List.range (storedBytes i s).length).map (effAddr s) := by
  cases i
  case storeRegs => rw [storedBytes, blockValues_length]; rfl
  all_goals rfl

theorem exec_next_mem (h : exec i s = .next t) :
    t.mem = s.mem.writeBytes (effAddr s 0) (storedBytes i s) := by
  cases i
  case sys => cases h
  case ret => obtain ⟨a, -, rfl⟩ := exec_ret_next_iff.mp h; rfl
  case call => obtain ⟨-, rfl⟩ := exec_call_next_iff.mp h; rfl
  case skp => obtain ⟨p, -, rfl⟩ := exec_skp_next_iff.mp h; rfl
  case sknp => obtain ⟨p, -, rfl⟩ := exec_sknp_next_iff.mp h; rfl
  case ldVxK => rcases exec_ldVxK_next_iff.mp h with ⟨-, rfl⟩ | ⟨k, -, rfl⟩ <;> rfl
  case drw => obtain ⟨-, rfl⟩ := exec_drw_next_iff.mp h; rfl
  case ldB => obtain ⟨-, rfl⟩ := exec_ldB_next_iff.mp h; rfl
  case storeRegs => obtain ⟨-, rfl⟩ := exec_storeRegs_next_iff.mp h; rfl
  case loadRegs => obtain ⟨-, rfl⟩ := exec_loadRegs_next_iff.mp h; rfl
  all_goals obtain rfl := Host.Outcome.next.inj h; rfl

/-- A range is checked whole before the first byte is stored (20_memory.md R55). -/
theorem exec_next_storedBytes_fit (h : exec i s = .next t) :
    storedBytes i s = [] ∨ effAddr s 0 + (storedBytes i s).length ≤ Config.memSize := by
  cases i
  case ldB =>
    obtain ⟨hin, -⟩ := exec_ldB_next_iff.mp h
    rw [inMemory_iff] at hin
    right; rw [storedBytes, digits_length, effAddr, Config.memSize]; omega
  case storeRegs =>
    obtain ⟨hin, -⟩ := exec_storeRegs_next_iff.mp h
    rw [inMemory_iff] at hin
    right; rw [storedBytes, blockValues_length, effAddr, Config.memSize]; omega
  all_goals exact .inl rfl

theorem exec_next_read (h : exec i s = .next t) (a : Nat) :
    t.mem.read a = byteAfterStore s (storedBytes i s) a := by
  rw [exec_next_mem h, read_store]

theorem byteAfterStore_of_not_mem {bs : List Byte} {a : Nat} (h : a ∉ (List.range bs.length).map (effAddr s)) :
    byteAfterStore s bs a = s.mem.read a := by
  unfold byteAfterStore
  split
  next hle =>
    have hlen : bs.length ≤ a - effAddr s 0 := by
      by_contra hlt
      refine h (List.mem_map.mpr ⟨a - effAddr s 0, List.mem_range.mpr (by omega), ?_⟩)
      simp only [effAddr] at *; omega
    rw [List.getElem?_eq_none hlen, Option.getD_none]
  next => rfl

theorem byteAfterStore_effAddr {bs : List Byte} {k : Nat} (h : k < bs.length) :
    byteAfterStore s bs (effAddr s k) = bs[k] := by
  have hk : effAddr s k - effAddr s 0 = k := by simp only [effAddr]; omega
  rw [byteAfterStore, if_pos (by simp only [effAddr]; omega), hk, List.getElem?_eq_getElem h, Option.getD_some]

end Stores

/-- Settles O7: the frame of each instruction composes the frames of its updates, and memory changes by the stored bytes
alone. -/
theorem everyInstructionWritesOnlyItsOwn : Obligations.EveryInstructionWritesOnlyItsOwn := by
  unfold Obligations.EveryInstructionWritesOnlyItsOwn
  intro i s t h
  refine ⟨exec_next_onlyChanges h, exec_next_regsSameBut h, fun a ha => ?_⟩
  rw [storedAddrs_eq] at ha
  rw [exec_next_read h, byteAfterStore_of_not_mem ha]

/-! ## Faults -/

/-- Settles O9: the nine instructions that can fault do so on the failure of the test that comes first; the others
answer their next state. -/
theorem faultsOfEveryInstruction : Obligations.FaultsOfEveryInstruction := by
  unfold Obligations.FaultsOfEveryInstruction
  refine fun i s => ⟨exec_ne_refused i s, fun f => ?_⟩
  cases i
  case sys nnn =>
    have hword : encode (.sys nnn) = BitVec.ofNat 16 nnn.toNat := by
      apply BitVec.eq_of_toNat_eq
      rw [encode, packNNN_toNat, BitVec.toNat_ofNat, BitVec.toNat_ofNat]; omega
    simp only [exec, execSys, raise, hword, Host.Outcome.fault.injEq, eq_comm]
  case ret => rw [exec_ret_fault_iff, top_none_iff]
  case call => rw [exec_call_fault_iff, stackFull_iff]
  case skp => rw [exec_skp_fault_iff, keyAt_eq_none_iff]
  case sknp => rw [exec_sknp_fault_iff, keyAt_eq_none_iff]
  case ldVxK => exact iff_of_false exec_ldVxK_ne_fault id
  case drw => rw [exec_drw_fault_iff, spriteInMemory_eq_false_iff]
  case ldB => rw [exec_ldB_fault_iff, inMemory_eq_false_iff]
  case storeRegs => rw [exec_storeRegs_fault_iff, inMemory_eq_false_iff]
  case loadRegs => rw [exec_loadRegs_fault_iff, inMemory_eq_false_iff]
  all_goals exact iff_of_false nofun id

/-! ## The pc after an instruction -/

theorem jpV0_target_toNat (nnn : BitVec 12) (b : Byte) :
    (address nnn + wide b).toNat = nnn.toNat + b.toNat := by
  rw [BitVec.toNat_add, address_toNat, wide_toNat]; omega

theorem leastKey_ne_none_iff (s : State) : leastKey s ≠ none ↔ ∃ k, keyDown s k = true := by
  simp [leastKey]

/-- Settles O8: pc is what the instruction's answer says it is; `LD Vx, K` advances it exactly when there is a least
pressed key. -/
theorem pcAfterEveryInstruction : Obligations.PcAfterEveryInstruction := by
  unfold Obligations.PcAfterEveryInstruction
  refine ⟨fun i s t h => ?_, fun s f h => by rw [stepOp, h]⟩
  cases i
  case sys => cases h
  case ret =>
    obtain ⟨a, htop, rfl⟩ := exec_ret_next_iff.mp h
    obtain ⟨rest, hstack⟩ := top_eq_some_iff.mp htop
    exact ⟨rest, a, hstack, rfl⟩
  case call => obtain ⟨-, rfl⟩ := exec_call_next_iff.mp h; exact address_toNat _
  case skp =>
    obtain ⟨p, hkey, rfl⟩ := exec_skp_next_iff.mp h
    obtain ⟨k, hk, rfl⟩ := keyAt_eq_some_iff.mp hkey
    exact ⟨k, hk, rfl⟩
  case sknp =>
    obtain ⟨p, hkey, rfl⟩ := exec_sknp_next_iff.mp h
    obtain ⟨k, hk, rfl⟩ := keyAt_eq_some_iff.mp hkey
    exact ⟨k, hk, by cases keyDown s k <;> simp⟩
  case ldVxK =>
    rcases exec_ldVxK_next_iff.mp h with ⟨hnone, rfl⟩ | ⟨k, hsome, rfl⟩
    · exact (if_neg ((leastKey_ne_none_iff _).not.mp (not_not.mpr hnone))).symm
    · exact (if_pos ⟨k, (leastKey_some s hsome).1⟩).symm
  case drw => obtain ⟨-, rfl⟩ := exec_drw_next_iff.mp h; rfl
  case ldB => obtain ⟨-, rfl⟩ := exec_ldB_next_iff.mp h; rfl
  case storeRegs => obtain ⟨-, rfl⟩ := exec_storeRegs_next_iff.mp h; rfl
  case loadRegs => obtain ⟨-, rfl⟩ := exec_loadRegs_next_iff.mp h; rfl
  all_goals obtain rfl := Host.Outcome.next.inj h
  case jp => exact address_toNat _
  case jpV0 => exact jpV0_target_toNat _ _
  case seImm | seReg | sneImm | sneReg => simp
  all_goals rfl

end Sys2Proof.Machine

/-!
PROOFS. The invariant of the machine (spec 10_state.md section 2, 20_memory.md section 1): every executed instruction
keeps each of its clauses, so every Step does, and every operation of the host.
-/

namespace Sys2Proof.Machine

/-! ## One instruction, clause by clause -/

section Clauses
variable {i : Instr} {s t : State}

theorem exec_next_mem_wf (hwf : s.mem.wf = true) (h : exec i s = .next t) : t.mem.wf = true := by
  rw [exec_next_mem h]
  rcases exec_next_storedBytes_fit h with hnil | hfit
  · rw [hnil]; exact hwf
  · exact Memory.writeBytes_wf hwf hfit

/-- The address of a glyph is not reduced: 255 * 5 is below 2 ^ 16 (42_index_memory.md R142). -/
theorem fontAddress_toNat (b : Byte) : (BitVec.ofNat 16 (b.toNat * 5)).toNat = b.toNat * 5 := by
  rw [BitVec.toNat_ofNat, Nat.mod_eq_of_lt (by omega)]

/-- Whatever an instruction writes to I is within 12 bits (10_state.md R22, D2). -/
theorem exec_next_index_cases (h : exec i s = .next t) : t.i = s.i ∨ t.i.toNat ≤ 0xFFF := by
  have hparts := exec_next_onlyChanges h
  cases i
  case ldI nnn =>
    obtain rfl := Host.Outcome.next.inj h
    right; rw [advance_i, setI_i, address_toNat]; omega
  case addI =>
    obtain rfl := Host.Outcome.next.inj h
    right; rw [advance_i, setFlag_i, setI_i, mask12_toNat]; omega
  case ldF x =>
    obtain rfl := Host.Outcome.next.inj h
    right; rw [advance_i, setI_i, fontAddress_toNat]; omega
  case storeRegs =>
    obtain ⟨-, rfl⟩ := exec_storeRegs_next_iff.mp h
    right; rw [advance_i, bumpI_i, mask12_toNat]; omega
  case loadRegs =>
    obtain ⟨-, rfl⟩ := exec_loadRegs_next_iff.mp h
    right; rw [advance_i, bumpI_i, mask12_toNat]; omega
  all_goals exact .inl (hparts .index (by simp [writtenParts]))

/-- A `CALL` pushes pc where there is room, a `RET` drops the top, nothing else touches the stack (R24). -/
theorem exec_next_stack_cases (h : exec i s = .next t) :
    t.stack = s.stack ∨ t.stack = s.stack.dropLast ∨
    stackFull s = false ∧ t.stack = s.stack ++ [s.pc] := by
  have hparts := exec_next_onlyChanges h
  cases i
  case ret => obtain ⟨a, -, rfl⟩ := exec_ret_next_iff.mp h; exact .inr (.inl rfl)
  case call => obtain ⟨hroom, rfl⟩ := exec_call_next_iff.mp h; exact .inr (.inr ⟨hroom, rfl⟩)
  all_goals exact .inl (hparts .stack (by simp [writtenParts]))

theorem exec_next_stackDepth (h : exec i s = .next t) : t.stackDepth = s.stackDepth :=
  exec_next_onlyChanges h .stackDepth (by cases i <;> simp [writtenParts])

/-- The farthest target of a fetched instruction is that of `JP V0, 0xFFF` (R23, D18). -/
theorem exec_next_pc_le (hpc : s.pc.toNat ≤ 0xFFE) (hstack : ∀ a ∈ s.stack, a.toNat ≤ 0xFFE)
    (h : exec i s = .next t) : t.pc.toNat ≤ 0x10FE := by
  have h2 : (s.pc + 2).toNat ≤ 0x10FE := by bv_omega
  have h4 : (s.pc + 4).toNat ≤ 0x10FE := by bv_omega
  obtain ⟨hafter, -⟩ := pcAfterEveryInstruction
  have ht := hafter i s t h
  cases i
  case sys => cases ht
  case jp nnn | call nnn => simp only at ht; omega
  case jpV0 nnn => simp only at ht; omega
  case ret =>
    obtain ⟨rest, a, hs, ha⟩ := ht
    have := hstack a (by simp [hs])
    bv_omega
  case skp | sknp => obtain ⟨k, -, hk⟩ := ht; rw [hk]; split <;> assumption
  case seImm | sneImm | seReg | sneReg => simp only at ht; rw [ht]; split <;> assumption
  case ldVxK => simp only at ht; rw [ht]; split <;> omega
  all_goals exact ht ▸ h2

end Clauses

/-! ## A Step -/

theorem MachineInv.exec {i : Instr} {s t : State} (hs : MachineInv s) (hpc : s.pc.toNat ≤ 0xFFE)
    (h : exec i s = .next t) : MachineInv t where
  memWf := exec_next_mem_wf hs.memWf h
  indexBound := by
    rcases exec_next_index_cases h with hi | hi
    · exact hi ▸ hs.indexBound
    · exact hi
  pcBound := exec_next_pc_le hpc hs.stackEntries h
  stackEntries := by
    intro a ha
    rcases exec_next_stack_cases h with hst | hst | ⟨-, hst⟩ <;> rw [hst] at ha
    · exact hs.stackEntries a ha
    · exact hs.stackEntries a (List.mem_of_mem_dropLast ha)
    · rcases List.mem_append.mp ha with ha | ha
      · exact hs.stackEntries a ha
      · rw [List.mem_singleton.mp ha]; exact hpc
  stackBound := by
    intro d hd
    rw [exec_next_stackDepth h] at hd
    have hbound := hs.stackBound d hd
    rcases exec_next_stack_cases h with hst | hst | ⟨hroom, hst⟩ <;> rw [hst]
    · exact hbound
    · rw [List.length_dropLast]; omega
    · rw [List.length_append, List.length_singleton]
      have hlt : ¬d ≤ s.stack.length := fun hle =>
        absurd ((stackFull_iff s).mpr ⟨d, hd, hle⟩) (by rw [hroom]; decide)
      omega

/-- Settles O47: a Step that goes on has executed an instruction from a pc up to 0xFFE, and that keeps every clause. -/
theorem stepKeepsTheInvariant : Obligations.StepKeepsTheInvariant := by
  unfold Obligations.StepKeepsTheInvariant
  intro s t hs h
  obtain ⟨hpc, i, -, hexec⟩ := step_next_cases h
  exact hs.exec hpc hexec

/-! ## The host's operations -/

/-- Settles O46: memory lists nothing, the stack is empty, and the bounds are on the reset values. -/
theorem invariantHoldsAtReset : Obligations.InvariantHoldsAtReset where
  memWf := reset_mem_wf
  indexBound := by decide
  pcBound := by decide
  stackEntries := fun _ ha => absurd ha List.not_mem_nil
  stackBound := fun _ _ => Nat.zero_le _

section HostOps
variable {s t : State}

/-- The invariant speaks of memory, I, pc and the stack only. -/
theorem MachineInv.congr (hs : MachineInv s) (hmem : t.mem = s.mem) (hi : t.i = s.i) (hpc : t.pc = s.pc)
    (hstack : t.stack = s.stack) (hdepth : t.stackDepth = s.stackDepth) : MachineInv t where
  memWf := hmem ▸ hs.memWf
  indexBound := hi ▸ hs.indexBound
  pcBound := hpc ▸ hs.pcBound
  stackEntries := hstack ▸ hs.stackEntries
  stackBound := by rw [hstack, hdepth]; exact hs.stackBound

theorem MachineInv.resetOp (hs : MachineInv s) : MachineInv (resetOp s) where
  memWf := by rw [resetOp_mem]; exact Memory.writeBytes_wf hs.memWf (by decide)
  indexBound := by rw [resetOp_i]; decide
  pcBound := by rw [resetOp_pc]; decide
  stackEntries := by rw [resetOp_stack]; exact fun _ ha => absurd ha List.not_mem_nil
  stackBound := by rw [resetOp_stack]; exact fun _ _ => Nat.zero_le _

theorem loadFits_iff {bytes : List Byte} {base : Nat} :
    loadFits bytes base = true ↔ bytes ≠ [] ∧ base + bytes.length ≤ Config.memSize := by
  simp [loadFits]

theorem MachineInv.load (hs : MachineInv s) (bytes : List Byte) (base : Nat) :
    MachineInv (load bytes base s).1 := by
  unfold Machine.load
  split
  next hfits =>
    exact { hs.congr (t := setMem s s.mem) rfl rfl rfl rfl rfl with
      memWf := Memory.writeBytes_wf hs.memWf (loadFits_iff.mp hfits).2 }
  next => exact hs

theorem MachineInv.stepOp (hs : MachineInv s) : MachineInv (stepOp s).1 := by
  rcases stepOp_fst_cases s with ⟨t, ht, heq⟩ | ⟨-, heq⟩ <;> rw [heq]
  · exact stepKeepsTheInvariant s t hs ht
  · exact hs

theorem MachineInv.tickSteps (hs : MachineInv s) (c : Nat) (r : OpResult) : MachineInv (tickSteps c s r).1 := by
  induction c generalizing s r with
  | zero => exact hs
  | succ c ih => rw [tickSteps_succ]; exact ih hs.stepOp _

theorem MachineInv.tick (hs : MachineInv s) (c : Nat) : MachineInv (tick c s).1 :=
  have hstart : MachineInv (tickStart s) := hs.congr rfl rfl rfl rfl rfl
  (hstart.tickSteps c .ok).congr rfl rfl rfl rfl rfl

theorem MachineInv.applyOp (hs : MachineInv s) (op : HostOp) : MachineInv (applyOp op s).1 := by
  cases op with
  | reset => exact hs.resetOp
  | load bytes base => exact hs.load bytes base
  | setKeys ks => exact hs.congr rfl rfl rfl rfl rfl
  | setKey k pressed => exact hs.congr rfl rfl rfl rfl rfl
  | step => exact hs.stepOp
  | tick c => exact hs.tick c

end HostOps

/-- Settles O48: by induction on the list of operations, each of which keeps the invariant. -/
theorem hostOperationsKeepTheInvariant : Obligations.HostOperationsKeepTheInvariant := by
  unfold Obligations.HostOperationsKeepTheInvariant
  intro ops
  induction ops with
  | nil => exact fun s hs => hs
  | cons op ops ih => exact fun s hs => ih _ (hs.applyOp op)

end Sys2Proof.Machine

/-!
PROOFS. Words without a handler and bits without a meaning (spec 30_encoding.md sections 2 and 3, R79, R80): what the
secondary dispatches refuse, and that the ignored bits reach no next state.
-/

namespace Sys2Proof

/-! ## What each dispatch refuses -/

section Refused
variable {w : Word}

theorem fieldN_eq_iff {n : BitVec 4} : fieldN w = n ↔ w.toNat % 16 = n.toNat := by
  rw [← BitVec.toNat_inj, fieldN_toNat]

theorem fieldNN_eq_iff {nn : Byte} : fieldNN w = nn ↔ w.toNat % 256 = nn.toNat := by
  rw [← BitVec.toNat_inj, fieldNN_toNat]

theorem fieldOp_eq_iff {op : BitVec 4} : fieldOp w = op ↔ w.toNat / 4096 = op.toNat := by
  rw [← BitVec.toNat_inj, fieldOp_toNat]

theorem decodeFamily0_sys_iff : (∃ nnn, decodeFamily0 w = .sys nnn) ↔ w.toNat % 16 ∉ [0x0, 0xE] := by
  unfold decodeFamily0
  split <;> simp_all [fieldN_eq_iff]

theorem decodeFamily8_error_iff :
    (∃ e, decodeFamily8 w = .error e) ↔ w.toNat % 16 ∈ [0x8, 0x9, 0xA, 0xB, 0xC, 0xD, 0xF] := by
  unfold decodeFamily8
  split <;> simp_all [fieldN_eq_iff]
  omega

theorem decodeFamilyE_error_iff : (∃ e, decodeFamilyE w = .error e) ↔ w.toNat % 16 ∉ [0x1, 0xE] := by
  unfold decodeFamilyE
  split <;> simp_all [fieldN_eq_iff]

theorem decodeFamilyF_error_iff :
    (∃ e, decodeFamilyF w = .error e) ↔
      w.toNat % 256 ∉ [0x07, 0x0A, 0x15, 0x18, 0x1E, 0x29, 0x33, 0x55, 0x65] := by
  unfold decodeFamilyF
  split <;> simp_all [fieldNN_eq_iff]

/-- Only family 0x0 has `SYS`. -/
theorem fieldOp_of_decodeWord_sys {nnn : BitVec 12} (h : decodeWord w = .ok (.sys nnn)) : fieldOp w = 0x0#4 := by
  obtain ⟨hword, -⟩ := encodeUndoesDecode w _ h
  rw [← hword]; exact fieldOp_packNNN _ _

/-- The four sets of R80: a word that the decoder refuses, or that is a `SYS`. -/
theorem decodeWord_unknown_iff :
    ((∃ e, decodeWord w = .error e) ∨ ∃ nnn, decodeWord w = .ok (.sys nnn)) ↔
      (w.toNat / 4096 = 0x0 ∧ w.toNat % 16 ∉ [0x0, 0xE]) ∨
      (w.toNat / 4096 = 0x8 ∧ w.toNat % 16 ∈ [0x8, 0x9, 0xA, 0xB, 0xC, 0xD, 0xF]) ∨
      (w.toNat / 4096 = 0xE ∧ w.toNat % 16 ∉ [0x1, 0xE]) ∨
      (w.toNat / 4096 = 0xF ∧
        w.toNat % 256 ∉ [0x07, 0x0A, 0x15, 0x18, 0x1E, 0x29, 0x33, 0x55, 0x65]) := by
  have hsys : ∀ nnn, decodeWord w = .ok (.sys nnn) → w.toNat / 4096 = 0x0 := fun nnn h =>
    fieldOp_eq_iff.mp (fieldOp_of_decodeWord_sys h)
  rw [← decodeFamily0_sys_iff, ← decodeFamily8_error_iff, ← decodeFamilyE_error_iff, ← decodeFamilyF_error_iff]
  by_cases h0 : w.toNat / 4096 = 0x0
  · simp [decodeWord_of_family0 (fieldOp_eq_iff.mpr h0), h0]
  have hno : ¬∃ nnn, decodeWord w = .ok (.sys nnn) := fun ⟨nnn, h⟩ => h0 (hsys nnn h)
  by_cases h8 : w.toNat / 4096 = 0x8
  · rw [decodeWord_of_family8 (fieldOp_eq_iff.mpr h8)] at hno ⊢
    simp [hno, h8]
  by_cases hE : w.toNat / 4096 = 0xE
  · rw [decodeWord_of_familyE (fieldOp_eq_iff.mpr hE)] at hno ⊢
    simp [hno, hE]
  by_cases hF : w.toNat / 4096 = 0xF
  · rw [decodeWord_of_familyF (fieldOp_eq_iff.mpr hF)] at hno ⊢
    simp [hno, hF]
  simp only [h0, h8, hE, hF, hno, false_and, or_false, iff_false]
  unfold decodeWord
  split <;> simp_all [fieldOp_eq_iff]
  omega

end Refused

/-! ## Words that agree in the bits a dispatch examines -/

section Examined
variable {w c : Word}

theorem fieldX_congr (h : w.toNat / 256 = c.toNat / 256) : fieldX w = fieldX c := by
  apply Fin.ext
  rw [fieldX_val, fieldX_val, h]

theorem fieldY_congr (h : w.toNat / 16 = c.toNat / 16) : fieldY w = fieldY c := by
  apply Fin.ext
  rw [fieldY_val, fieldY_val, h]

theorem fieldN_congr (h : w.toNat % 16 = c.toNat % 16) : fieldN w = fieldN c := by
  rw [fieldN_eq_iff, fieldN_toNat, h]

theorem decodeFamily0_of_cls (h : fieldN w = 0x0#4) : decodeFamily0 w = .cls (fieldU8 w) := by
  rw [decodeFamily0, h]; rfl

theorem decodeFamily0_of_ret (h : fieldN w = 0xE#4) : decodeFamily0 w = .ret (fieldU8 w) := by
  rw [decodeFamily0, h]; rfl

theorem decodeFamily8_of_shr (h : fieldN w = 0x6#4) : decodeFamily8 w = .ok (.shr (fieldX w) (fieldY w)) := by
  rw [decodeFamily8, h]; rfl

theorem decodeFamily8_of_shl (h : fieldN w = 0xE#4) : decodeFamily8 w = .ok (.shl (fieldX w) (fieldY w)) := by
  rw [decodeFamily8, h]; rfl

theorem decodeWord_of_family5 (h : fieldOp w = 0x5#4) :
    decodeWord w = .ok (.seReg (fieldX w) (fieldY w) (fieldN w)) := by
  rw [decodeWord, h]; rfl

theorem decodeWord_of_family9 (h : fieldOp w = 0x9#4) :
    decodeWord w = .ok (.sneReg (fieldX w) (fieldY w) (fieldN w)) := by
  rw [decodeWord, h]; rfl

end Examined

/-- Settles O4: each word is evaluated. -/
theorem wordsFromTheTableDecode : Obligations.WordsFromTheTableDecode := by
  unfold Obligations.WordsFromTheTableDecode
  decide

end Sys2Proof

namespace Sys2Proof.Machine

theorem exec_fault_unknownOpcode_iff {i : Instr} {s : State} {w : Word} (hi : decodeWord w = .ok i) :
    exec i s = .fault (.unknownOpcode w s.pc) ↔ ∃ nnn, i = .sys nnn := by
  cases i
  case sys nnn =>
    obtain ⟨hword, -⟩ := encodeUndoesDecode w _ hi
    exact iff_of_true (by rw [← hword]; rfl) ⟨nnn, rfl⟩
  all_goals
    rw [(faultsOfEveryInstruction _ s).2]
    simp

/-- Settles O3: a Step raises UnknownOpcode where the decoder refuses the word and where it reads a `SYS`, and those
words are the four sets. -/
theorem unknownOpcodeExactlyTheFourSets : Obligations.UnknownOpcodeExactlyTheFourSets := by
  unfold Obligations.UnknownOpcodeExactlyTheFourSets
  rintro w s hpc rfl
  rw [← decodeWord_unknown_iff]
  cases hdec : decodeWord (wordAt s.mem s.pc.toNat) with
  | error e => simp [step_of_decode_error hpc hdec]
  | ok i => simp [step_of_decode_ok hpc hdec, exec_fault_unknownOpcode_iff hdec]

/-- Settles O5: of two such words each family decodes the same instruction up to the ignored field, and that field is in
no answer but the fault of `SKP` and `SKNP`. -/
theorem ignoredBitsChangeNothing : Obligations.IgnoredBitsChangeNothing := by
  unfold Obligations.IgnoredBitsChangeNothing
  rintro w c i j ⟨hop, hcase⟩ hi hj s t
  rcases hcase with ⟨h0, hn, hnc⟩ | ⟨h59, hxy⟩ | ⟨hE, hx, hnc⟩ | ⟨h8, hn, hx, hnc⟩
  · rw [decodeWord_of_family0 (fieldOp_eq_iff.mpr h0)] at hi
    rw [decodeWord_of_family0 (fieldOp_eq_iff.mpr (hop ▸ h0))] at hj
    cases hi; cases hj
    rcases hn with hn | hn
    · rw [decodeFamily0_of_cls (fieldN_eq_iff.mpr hn), decodeFamily0_of_cls (fieldN_eq_iff.mpr (hnc ▸ hn))]
      rfl
    · rw [decodeFamily0_of_ret (fieldN_eq_iff.mpr hn), decodeFamily0_of_ret (fieldN_eq_iff.mpr (hnc ▸ hn))]
      rfl
  · have hx : fieldX w = fieldX c := fieldX_congr (by omega)
    have hy : fieldY w = fieldY c := fieldY_congr hxy
    rcases h59 with h5 | h9
    · rw [decodeWord_of_family5 (fieldOp_eq_iff.mpr h5)] at hi
      rw [decodeWord_of_family5 (fieldOp_eq_iff.mpr (hop ▸ h5)), ← hx, ← hy] at hj
      cases hi; cases hj; rfl
    · rw [decodeWord_of_family9 (fieldOp_eq_iff.mpr h9)] at hi
      rw [decodeWord_of_family9 (fieldOp_eq_iff.mpr (hop ▸ h9)), ← hx, ← hy] at hj
      cases hi; cases hj; rfl
  · rw [decodeWord_of_familyE (fieldOp_eq_iff.mpr hE), decodeFamilyE] at hi
    rw [decodeWord_of_familyE (fieldOp_eq_iff.mpr (hop ▸ hE)), decodeFamilyE, ← fieldN_congr hnc,
      ← fieldX_congr hx] at hj
    split at hi <;> cases hi
    next hn => rw [hn] at hj; cases hj; rw [exec_skp_next_iff, exec_skp_next_iff]
    next hn => rw [hn] at hj; cases hj; rw [exec_sknp_next_iff, exec_sknp_next_iff]
  · rw [decodeWord_of_family8 (fieldOp_eq_iff.mpr h8)] at hi
    rw [decodeWord_of_family8 (fieldOp_eq_iff.mpr (hop ▸ h8))] at hj
    rcases hn with hn | hn
    · rw [decodeFamily8_of_shr (fieldN_eq_iff.mpr hn)] at hi
      rw [decodeFamily8_of_shr (fieldN_eq_iff.mpr (hnc ▸ hn)), ← fieldX_congr hx] at hj
      cases hi; cases hj; rfl
    · rw [decodeFamily8_of_shl (fieldN_eq_iff.mpr hn)] at hi
      rw [decodeFamily8_of_shl (fieldN_eq_iff.mpr (hnc ▸ hn)), ← fieldX_congr hx] at hj
      cases hi; cases hj; rfl

end Sys2Proof.Machine

/-!
PROOFS. Control transfer and the register instructions (spec 40_control.md, 41_alu.md, 44_keypad_timers.md): what each
writes, the frame being the one that the access table gives it.
-/

namespace Sys2Proof.Machine

/-! ## Control transfer -/

/-- Settles O11: the one fault of `SYS`. -/
theorem sysAlwaysFaults : Obligations.SysAlwaysFaults := by
  unfold Obligations.SysAlwaysFaults
  intro nnn s
  obtain ⟨-, hfault⟩ := faultsOfEveryInstruction (.sys nnn) s
  exact (hfault _).mpr rfl

/-- Settles O13: above 0xFFE the next fetch leaves memory, at 0xFFF by its second byte. -/
theorem jumpWithOffsetAddsV0 : Obligations.JumpWithOffsetAddsV0 := by
  unfold Obligations.JumpWithOffsetAddsV0
  intro nnn s
  have hpc := jpV0_target_toNat nnn (getV s 0)
  refine ⟨_, rfl, hpc, onlyChanges_goTo s _, fun hbig => ?_⟩
  split
  next hlast => exact step_of_pc_eq_last hlast
  next hnot =>
    simp only [goTo_pc, hpc] at hnot
    apply step_of_memSize_le_pc
    rw [goTo_pc, hpc]; omega

/-- Settles O14: with room on the stack `CALL` is `push`, then `goTo`. -/
theorem callPushesItsAddress : Obligations.CallPushesItsAddress := by
  unfold Obligations.CallPushesItsAddress
  intro nnn s hroom
  have hnotFull : stackFull s = false := by
    rw [← Bool.not_eq_true, stackFull_iff]
    rintro ⟨d, hd, hle⟩
    have := hroom d hd
    omega
  have hnext := exec_call_next_iff (nnn := nnn).mpr ⟨hnotFull, rfl⟩
  exact ⟨_, hnext, rfl, address_toNat nnn, exec_next_onlyChanges hnext⟩

/-- Settles O15: with a top on the stack `RET` is `dropTop`, then `goTo`. -/
theorem returnPopsAndAddsTwo : Obligations.ReturnPopsAndAddsTwo := by
  unfold Obligations.ReturnPopsAndAddsTwo
  intro u s rest a hstack
  have hnext := exec_ret_next_iff (u := u).mpr ⟨a, top_eq_some_iff.mpr ⟨rest, hstack⟩, rfl⟩
  exact ⟨_, hnext, rfl, by simp [hstack], exec_next_onlyChanges hnext⟩

/-- Settles O16: the top that the `CALL` left is its own address, below it the stack as it was. -/
theorem returnLandsPastItsCall : Obligations.ReturnLandsPastItsCall := by
  unfold Obligations.ReturnLandsPastItsCall
  intro nnn u s t t' hcall hstack
  obtain ⟨-, rfl⟩ := exec_call_next_iff.mp hcall
  obtain ⟨r, hr, hpc, hrest, -⟩ := returnPopsAndAddsTwo u t' s.stack s.pc hstack
  exact ⟨r, hr, hpc, hrest⟩

/-- Settles O18: both instructions are `skipIf`, on `Vx == Vy` and on `Vx != Vy`. -/
theorem skipsOnRegisters : Obligations.SkipsOnRegisters := by
  unfold Obligations.SkipsOnRegisters
  intro x y u s
  obtain ⟨hse, hseTaken, hseNot, -⟩ :=
    skipIf_spec s (c := getV s x == getV s y) beq_iff_eq.mpr beq_eq_false_iff_ne.mpr
  obtain ⟨hsne, hsneTaken, hsneNot, -⟩ :=
    skipIf_spec s (c := getV s x != getV s y) bne_iff_ne.mpr bne_eq_false_iff_eq.mpr
  exact ⟨⟨_, rfl, hse, hseTaken, hseNot, fun hxy => hseTaken (by rw [hxy])⟩,
    ⟨_, rfl, hsne, hsneTaken, hsneNot, fun hxy => hsneNot (by rw [hxy])⟩⟩

/-! ## Register arithmetic and logic -/

theorem getV_setFlag_vf (s : State) (c : Bool) : getV (setFlag s c) 15 = flagByte c := by
  rw [getV_setFlag]; exact if_pos rfl

/-- Everything that `finishFlag` does; the flag wins where `x` is VF (41_alu.md R133, D9). -/
theorem finishFlag_spec (s : State) (x : Reg) (r : Byte) (c : Bool) :
    ∃ t, finishFlag s x r c = .next t ∧ (x ≠ 15 → getV t x = r) ∧ getV t 15 = flagByte c ∧
      t.pc = s.pc + 2 ∧ RegsSameBut [x, 15] s t ∧ OnlyChanges [.regs, .pc] s t := by
  refine ⟨_, rfl, fun hx => ?_, ?_, rfl, regsSameBut_finishFlag s x r c, onlyChanges_finishFlag s x r c⟩
  · rw [getV_advance, getV_setFlag, if_neg (by exact hx), getV_setV, if_pos rfl]
  · rw [getV_advance, getV_setFlag_vf]

/-- Settles O20: `finish` with the sum of bit vectors. -/
theorem addImmediateWraps : Obligations.AddImmediateWraps := by
  unfold Obligations.AddImmediateWraps
  intro x nn s
  obtain ⟨t, ht, hx, hframe⟩ := finish_spec s x (getV s x + nn)
  exact ⟨t, ht, by rw [hx, BitVec.toNat_add], hframe⟩

/-- Settles O21: `finish` with the copy and with the three bitwise operations. -/
theorem copyAndLogicBitwise : Obligations.CopyAndLogicBitwise := by
  unfold Obligations.CopyAndLogicBitwise
  intro x y s
  refine ⟨finish_spec s x (getV s y), ?_, ?_, ?_⟩
  · obtain ⟨t, ht, hx, hframe⟩ := finish_spec s x (getV s x ||| getV s y)
    exact ⟨t, ht, fun k => by rw [hx, BitVec.getLsbD_or], hframe⟩
  · obtain ⟨t, ht, hx, hframe⟩ := finish_spec s x (getV s x &&& getV s y)
    exact ⟨t, ht, fun k => by rw [hx, BitVec.getLsbD_and], hframe⟩
  · obtain ⟨t, ht, hx, hframe⟩ := finish_spec s x (getV s x ^^^ getV s y)
    exact ⟨t, ht, fun k => by rw [hx, BitVec.getLsbD_xor], hframe⟩

/-- Settles O22: `finishFlag` with the sum and its carry. -/
theorem addRegistersSumAndCarry : Obligations.AddRegistersSumAndCarry := by
  unfold Obligations.AddRegistersSumAndCarry
  intro x y s
  obtain ⟨t, ht, hx, hflag, hframe⟩ :=
    finishFlag_spec s x (getV s x + getV s y) (carry (getV s x) (getV s y))
  refine ⟨t, ht, fun hne => ?_, ?_, hframe⟩
  · rw [hx hne, BitVec.toNat_add]
  · simp [hflag, flagByte_toNat, carry]

theorem toNat_sub_cast_eq_emod (a b : Byte) : ((a - b).toNat : Int) = (a.toNat - b.toNat : Int) % 256 := by
  rw [BitVec.toNat_sub]; omega

theorem flagByte_notBorrow_toNat (a b : Byte) :
    (flagByte (notBorrow a b)).toNat = if a.toNat < b.toNat then 0 else 1 := by
  simp only [flagByte_toNat, notBorrow, decide_eq_true_eq, ← Nat.not_lt, ite_not]

/-- Settles O23: `finishFlag` with the difference and the complement of its borrow, for both orders of the operands. -/
theorem subtractsDifferenceAndNotBorrow : Obligations.SubtractsDifferenceAndNotBorrow := by
  unfold Obligations.SubtractsDifferenceAndNotBorrow
  intro x y s
  constructor
  · obtain ⟨t, ht, hx, hflag, hframe⟩ :=
      finishFlag_spec s x (getV s x - getV s y) (notBorrow (getV s x) (getV s y))
    exact ⟨t, ht, fun hne => by rw [hx hne, toNat_sub_cast_eq_emod], by rw [hflag, flagByte_notBorrow_toNat], hframe⟩
  · obtain ⟨t, ht, hx, hflag, hframe⟩ :=
      finishFlag_spec s x (getV s y - getV s x) (notBorrow (getV s y) (getV s x))
    exact ⟨t, ht, fun hne => by rw [hx hne, toNat_sub_cast_eq_emod], by rw [hflag, flagByte_notBorrow_toNat], hframe⟩

theorem flagByte_lowBit_toNat (b : Byte) : (flagByte (lowBit b)).toNat = b.toNat % 2 := by
  rw [flagByte_toNat, lowBit, BitVec.getLsbD, Nat.testBit_zero]
  split <;> simp_all

theorem flagByte_highBit_toNat (b : Byte) : (flagByte (highBit b)).toNat = b.toNat / 128 := by
  rw [flagByte_toNat, highBit, BitVec.getLsbD, Nat.testBit_eq_decide_div_mod_eq]
  split <;> simp_all <;> omega

/-- Settles O24: `finishFlag` with the shifted value and the bit that the shift pushes out. -/
theorem shiftsMoveByOne : Obligations.ShiftsMoveByOne := by
  unfold Obligations.ShiftsMoveByOne
  intro x y s
  constructor
  · obtain ⟨t, ht, hx, hflag, hframe⟩ := finishFlag_spec s x (getV s x >>> 1) (lowBit (getV s x))
    refine ⟨t, ht, fun hne => ?_, by rw [hflag, flagByte_lowBit_toNat], hframe⟩
    rw [hx hne, BitVec.toNat_ushiftRight, Nat.shiftRight_one]
  · obtain ⟨t, ht, hx, hflag, hframe⟩ := finishFlag_spec s x (getV s x <<< 1) (highBit (getV s x))
    refine ⟨t, ht, fun hne => ?_, by rw [hflag, flagByte_highBit_toNat], hframe⟩
    rw [hx hne, BitVec.toNat_shiftLeft, Nat.shiftLeft_eq, Nat.mul_comm]

/-- Settles O25: Vx is the draw AND nn, whatever the draw is. -/
theorem randomIsMasked : Obligations.RandomIsMasked := by
  unfold Obligations.RandomIsMasked
  intro x nn s
  obtain ⟨t, ht, hx, hpc, hregs, -⟩ := finish_spec (countDraw s) x (drawnByte s &&& nn)
  have hnext : exec (.rnd x nn) s = .next t := ht
  obtain ⟨-, -, -, -, hdraws⟩ := exec_next_timersFlagsDraws hnext
  refine ⟨t, hnext, fun k => ?_, ?_, hdraws, hpc, hregs, exec_next_onlyChanges hnext⟩
  · rw [hx, BitVec.getLsbD_and, drawnByte]
  · rw [hx, BitVec.toNat_and]
    exact Nat.and_le_right

/-! ## Keys and timers -/

/-- Settles O38: an index up to 15 names a key, and the skip goes by its level. -/
theorem skipsOnKeyLevel : Obligations.SkipsOnKeyLevel := by
  unfold Obligations.SkipsOnKeyLevel
  intro x u s k hk
  have hkey : keyAt s (getV s x) = some (keyDown s k) := keyAt_eq_some_iff.mpr ⟨k, hk.symm, rfl⟩
  obtain ⟨hskp, hskpTaken, hskpNot, -⟩ :=
    skipIf_spec s (c := keyDown s k) (p := keyDown s k = true) (q := keyDown s k = false) id id
  obtain ⟨hsknp, hsknpTaken, hsknpNot, -⟩ :=
    skipIf_spec s (c := !keyDown s k) (p := keyDown s k = false) (q := keyDown s k = true) (by simp) (by simp)
  exact ⟨⟨_, exec_skp_next_iff.mpr ⟨_, hkey, rfl⟩, hskp, hskpTaken, hskpNot⟩,
    ⟨_, exec_sknp_next_iff.mpr ⟨_, hkey, rfl⟩, hsknp, hsknpTaken, hsknpNot⟩⟩

theorem leastKey_eq_some {s : State} {k : Fin 16} (hk : keyDown s k = true)
    (hlt : ∀ j, j < k → keyDown s j = false) : leastKey s = some k := by
  cases hleast : leastKey s with
  | none => exact absurd ⟨k, hk⟩ ((leastKey_ne_none_iff s).not.mp (not_not.mpr hleast))
  | some j =>
    obtain ⟨hj, hbelow⟩ := leastKey_some s hleast
    rcases lt_trichotomy j k with h | rfl | h
    · simp [hlt j h] at hj
    · rfl
    · simp [hbelow k h] at hk

/-- Settles O39: no key pressed means no least key; otherwise `finish` with the least one's index. -/
theorem awaitKeyWaitsOrStores : Obligations.AwaitKeyWaitsOrStores := by
  unfold Obligations.AwaitKeyWaitsOrStores
  refine fun x s => ⟨fun hnone => ?_, fun k hk hlt => ?_⟩
  · have hleast : leastKey s = none := by
      by_contra h
      obtain ⟨k, hk⟩ := (leastKey_ne_none_iff s).mp h
      simp [hnone k] at hk
    exact exec_ldVxK_next_iff.mpr (.inl ⟨hleast, rfl⟩)
  · refine ⟨_, exec_ldVxK_next_iff.mpr (.inr ⟨k, leastKey_eq_some hk hlt, rfl⟩), ?_, rfl,
      regsSameBut_advance_setV s x _, onlyChanges_advance_setV s x _⟩
    rw [getV_advance_setV_same, BitVec.toNat_ofNat]; omega

/-- A timer counts down to the floor 0 (60_exceptions.md R216). -/
theorem countDown_toNat (b : Byte) : (countDown b).toNat = b.toNat - 1 := by
  unfold countDown
  split <;> bv_omega

/-- Settles O40: three copies; then the end of a Tick counts down, and beeps on an ST of 1. -/
theorem timerMovesCopy : Obligations.TimerMovesCopy := by
  unfold Obligations.TimerMovesCopy
  intro x s
  refine ⟨finish_spec s x s.dt, ?_, ?_⟩
  · exact ⟨_, rfl, rfl, rfl, exec_next_onlyChanges (i := .ldDtVx x) rfl, countDown_toNat _⟩
  · refine ⟨_, rfl, rfl, rfl, exec_next_onlyChanges (i := .ldStVx x) rfl, countDown_toNat _, fun hbeep => ?_⟩
    constructor <;> intro hx <;> simp [hx, hbeep, countDown]

end Sys2Proof.Machine

/-!
PROOFS. Address register, loads and stores (spec 42_index_memory.md, 20_memory.md section 3): the range checked before
an access, the bytes that a store leaves for every later read, and the canonical form of memory.
-/

namespace Sys2Proof.Machine

/-! ## Address register -/

/-- Settles O26: I is nnn; from 0xFFF a range with a second byte leaves memory. -/
theorem loadIndexSetsI : Obligations.LoadIndexSetsI := by
  unfold Obligations.LoadIndexSetsI
  intro nnn s
  have hi : (advance (setI s (address nnn))).i.toNat = nnn.toNat := by rw [advance_i, setI_i, address_toNat]
  refine ⟨_, rfl, hi, rfl, exec_next_onlyChanges (i := .ldI nnn) rfl, fun hlast => ?_⟩
  have hlast : nnn.toNat = 0xFFF := by rw [hlast]; rfl
  refine ⟨fun k hk => by rw [effAddr, hi]; omega, fun j hj => ?_⟩
  rcases hj with ⟨x, hx, rfl | rfl⟩ | ⟨x, rfl⟩ | ⟨x, y, n, hn, rfl⟩
  · have hpos : 1 ≤ x.val := hx
    exact exec_storeRegs_fault_iff.mpr ⟨inMemory_eq_false_iff.mpr (by omega), rfl⟩
  · have hpos : 1 ≤ x.val := hx
    exact exec_loadRegs_fault_iff.mpr ⟨inMemory_eq_false_iff.mpr (by omega), rfl⟩
  · exact exec_ldB_fault_iff.mpr ⟨inMemory_eq_false_iff.mpr (by omega), rfl⟩
  · exact exec_drw_fault_iff.mpr ⟨spriteInMemory_eq_false_iff.mpr (by omega), rfl⟩

/-- Settles O27: the sum reduced to 12 bits, and the flag of its overflow from the operands before. -/
theorem addIndexMasksAndFlags : Obligations.AddIndexMasksAndFlags := by
  unfold Obligations.AddIndexMasksAndFlags
  intro x s
  refine ⟨_, rfl, mask12_toNat _, ?_, rfl, exec_next_regsSameBut (i := .addI x) rfl,
    exec_next_onlyChanges (i := .addI x) rfl⟩
  rw [getV_advance, getV_setFlag_vf, flagByte_toNat, indexOverflow]
  simp

/-- Settles O28: a byte times 5 is at most 0x4FB. -/
theorem fontAddressIsFiveTimes : Obligations.FontAddressIsFiveTimes := by
  unfold Obligations.FontAddressIsFiveTimes
  intro x s
  have hi : (advance (setI s (BitVec.ofNat 16 ((getV s x).toNat * 5)))).i.toNat = (getV s x).toNat * 5 :=
    fontAddress_toNat _
  exact ⟨_, rfl, hi, by omega, rfl, exec_next_onlyChanges (i := .ldF x) rfl⟩

/-! ## Stores -/

section Stores
variable {i : Instr} {s t : State}

/-- The stored byte `k` reads back at I + k. -/
theorem exec_next_read_stored (h : exec i s = .next t) {k : Nat} (hk : k < (storedBytes i s).length) :
    t.mem.read (effAddr s k) = (storedBytes i s)[k] := by
  rw [exec_next_read h, byteAfterStore_effAddr hk]

theorem exec_next_read_other (h : exec i s = .next t) {a : Nat} (ha : a ∉ storedAddrs i s) :
    t.mem.read a = s.mem.read a := by
  obtain ⟨-, -, hmem⟩ := everyInstructionWritesOnlyItsOwn i s t h
  exact hmem a ha

end Stores

/-- Settles O29: the digits are stored in order, each below 256, or the range check faults. -/
theorem bcdStoresThreeDigits : Obligations.BcdStoresThreeDigits := by
  unfold Obligations.BcdStoresThreeDigits
  refine fun x s => ⟨fun hin => ?_, fun hout => ?_⟩
  · have hnext := exec_ldB_next_iff (x := x).mpr ⟨(inMemory_iff s 2).mpr hin, rfl⟩
    have hread (k : Nat) (hk : k < 3) := exec_next_read_stored hnext (k := k) (by exact hk)
    refine ⟨_, hnext, ?_, ?_, ?_, fun a ha => exec_next_read_other hnext ha, rfl, exec_next_onlyChanges hnext⟩
    · rw [hread 0 (by decide)]; simp [storedBytes, digits]; omega
    · rw [hread 1 (by decide)]; simp [storedBytes, digits]; omega
    · rw [hread 2 (by decide)]; simp [storedBytes, digits]; omega
  · exact exec_ldB_fault_iff.mpr ⟨inMemory_eq_false_iff.mpr hout, rfl⟩

theorem bumpI_i_toNat (s : State) (x : Reg) : (bumpI s x).i.toNat = (s.i.toNat + x.val + 1) % 4096 := by
  rw [bumpI_i, mask12_toNat, effAddr, blockLength, Nat.add_assoc]

theorem mem_storedAddrs_storeRegs_iff {s : State} {x : Reg} {a : Nat} :
    a ∈ storedAddrs (.storeRegs x) s ↔ ∃ k : Reg, k ≤ x ∧ a = effAddr s k.val := by
  simp only [storedAddrs, List.mem_map, List.mem_range]
  constructor
  · rintro ⟨k, hk, rfl⟩
    exact ⟨⟨k, by omega⟩, Fin.le_def.mpr (Nat.le_of_lt_succ hk), rfl⟩
  · rintro ⟨k, hk, rfl⟩
    exact ⟨k.val, Nat.lt_succ_of_le hk, rfl⟩

/-- After `LD [I], Vx` register k stands at I + k. -/
theorem exec_storeRegs_next_read {s t : State} {x : Reg} (h : exec (.storeRegs x) s = .next t) {k : Reg}
    (hk : k ≤ x) : t.mem.read (effAddr s k.val) = getV s k := by
  have hlt : k.val < (blockValues s x).length := by
    rw [blockValues_length]; exact Nat.lt_succ_of_le hk
  exact (exec_next_read_stored h hlt).trans (blockValues_getElem s x k.val hlt k.isLt)

/-- Settles O30: the stored bytes are the registers up to x in order, or the range check faults. -/
theorem storeBlockCopiesRegisters : Obligations.StoreBlockCopiesRegisters := by
  unfold Obligations.StoreBlockCopiesRegisters
  refine fun x s => ⟨fun hin => ?_, fun hout => ?_⟩
  · have hnext := exec_storeRegs_next_iff (x := x).mpr ⟨(inMemory_iff s _).mpr hin, rfl⟩
    refine ⟨_, hnext, fun k hk => exec_storeRegs_next_read hnext hk, fun a ha => ?_, bumpI_i_toNat _ x, rfl,
      exec_next_onlyChanges hnext⟩
    apply exec_next_read_other hnext
    rw [mem_storedAddrs_storeRegs_iff]
    rintro ⟨k, hk, heq⟩
    exact ha k hk heq
  · exact exec_storeRegs_fault_iff.mpr ⟨inMemory_eq_false_iff.mpr hout, rfl⟩

/-! ## Loads -/

/-- Settles O31: `loadBlock` reads the block up to x and leaves the registers above, or the range check faults. -/
theorem loadBlockCopiesMemory : Obligations.LoadBlockCopiesMemory := by
  unfold Obligations.LoadBlockCopiesMemory
  refine fun x s => ⟨fun hin => ?_, fun hout => ?_⟩
  · have hnext := exec_loadRegs_next_iff (x := x).mpr ⟨(inMemory_iff s _).mpr hin, rfl⟩
    refine ⟨_, hnext, fun k hk => ?_, fun k hk => ?_, bumpI_i_toNat _ x, rfl, exec_next_onlyChanges hnext⟩
    · rw [getV_advance, getV_bumpI, getV_loadBlock, if_pos hk, effAddr]
    · rw [getV_advance, getV_bumpI, getV_loadBlock, if_neg (not_le.mpr hk)]
  · exact exec_loadRegs_fault_iff.mpr ⟨inMemory_eq_false_iff.mpr hout, rfl⟩

/-- Settles O32: the store that went on had its range in memory, so the load of that range goes on and reads the stored
registers. -/
theorem loadAfterStoreRestoresRegisters : Obligations.LoadAfterStoreRestoresRegisters := by
  unfold Obligations.LoadAfterStoreRestoresRegisters
  intro x s t t' hstore hmem hi
  obtain ⟨hin, -⟩ := exec_storeRegs_next_iff.mp hstore
  obtain ⟨hload, -⟩ := loadBlockCopiesMemory x t'
  obtain ⟨r, hr, hregs, -⟩ := hload (by rw [hi]; exact (inMemory_iff s _).mp hin)
  refine ⟨r, hr, fun k hk => ?_⟩
  rw [hregs k hk, hmem, effAddr, hi]
  exact exec_storeRegs_next_read hstore hk

/-! ## Stores and the fetch -/

/-- Settles O33: a fetch reads memory byte by byte, and each byte is what the store left there. -/
theorem storeIsSeenByTheNextFetch : Obligations.StoreIsSeenByTheNextFetch := by
  unfold Obligations.StoreIsSeenByTheNextFetch
  intro x i bs s t hi hexec t' hmem hpc j hdec
  have hbs : bs = storedBytes i s := by rcases hi with ⟨rfl, rfl⟩ | ⟨rfl, rfl⟩ <;> rfl
  have hword : wordAt t'.mem t'.pc.toNat =
      wordOfBytes (byteAfterStore s bs t'.pc.toNat) (byteAfterStore s bs (t'.pc.toNat + 1)) := by
    rw [wordAt, hmem, exec_next_read hexec, exec_next_read hexec, hbs]
  exact step_of_decode_ok hpc (hword ▸ hdec)

/-! ## The canonical form -/

section Canonical
variable {m m' : Memory} {a b : Nat} {v w : Byte}

theorem Memory.read_of_all_above (h : ∀ c ∈ m, a < c.1) : m.read a = unwritten a := by
  induction m with
  | nil => rfl
  | cons c m ih =>
    rw [List.forall_mem_cons] at h
    rw [Memory.read_cons, if_neg (by omega), ih h.2]

theorem Memory.read_head : Memory.read ((a, v) :: m) a = v := by
  rw [Memory.read_cons, if_pos rfl]

/-- A memory in canonical form tells its first listed address from one that lists nothing up to there. -/
theorem Memory.read_ne_of_head_below (hm : Memory.wf ((a, v) :: m) = true) (h : ∀ c ∈ m', a < c.1) :
    Memory.read ((a, v) :: m) a ≠ m'.read a := by
  obtain ⟨-, hv, -, -⟩ := (Memory.wf_cons a v m).mp hm
  rw [Memory.read_head, Memory.read_of_all_above h]
  exact hv

theorem Memory.all_above_of_wf_cons (hm : Memory.wf ((b, w) :: m) = true) (hlt : a < b) :
    ∀ c ∈ ((b, w) :: m : Memory), a < c.1 := by
  obtain ⟨-, -, habove, -⟩ := (Memory.wf_cons b w m).mp hm
  rw [List.forall_mem_cons]
  exact ⟨hlt, fun c hc => hlt.trans (habove c hc)⟩

/-- Two memories with the same head, both in canonical form, read alike only if their tails do. -/
theorem Memory.read_tail_eq (hm : Memory.wf ((a, v) :: m) = true) (hm' : Memory.wf ((a, w) :: m') = true)
    (h : ∀ c, Memory.read ((a, v) :: m) c = Memory.read ((a, w) :: m') c) (c : Nat) : m.read c = m'.read c := by
  obtain ⟨-, -, habove, -⟩ := (Memory.wf_cons a v m).mp hm
  obtain ⟨-, -, habove', -⟩ := (Memory.wf_cons a w m').mp hm'
  by_cases hc : c = a
  · rw [hc, Memory.read_of_all_above habove, Memory.read_of_all_above habove']
  · have hread := h c
    rwa [Memory.read_cons, Memory.read_cons, if_neg hc, if_neg hc] at hread

end Canonical

/-- Settles O51: by induction on one memory; the lower of two differing first addresses would read as listed in one
memory and as unlisted in the other. -/
theorem equalReadsMeanEqualMemory : Obligations.EqualReadsMeanEqualMemory := by
  unfold Obligations.EqualReadsMeanEqualMemory
  intro m
  induction m with
  | nil =>
    intro m' _ hm' h
    cases m' with
    | nil => rfl
    | cons c m' => exact absurd (h c.1).symm (Memory.read_ne_of_head_below hm' (by simp))
  | cons c m ih =>
    obtain ⟨a, v⟩ := c
    intro m' hm hm' h
    cases m' with
    | nil => exact absurd (h a) (Memory.read_ne_of_head_below hm (by simp))
    | cons c m' =>
      obtain ⟨b, w⟩ := c
      rcases lt_trichotomy a b with hab | rfl | hba
      · exact absurd (h a) (Memory.read_ne_of_head_below hm (Memory.all_above_of_wf_cons hm' hab))
      · have hvw : v = w := by simpa only [Memory.read_head] using h a
        obtain ⟨-, -, -, hwf⟩ := (Memory.wf_cons a v m).mp hm
        obtain ⟨-, -, -, hwf'⟩ := (Memory.wf_cons a w m').mp hm'
        rw [hvw, ih m' hwf hwf' (Memory.read_tail_eq hm hm' h)]
      · exact absurd (h b).symm (Memory.read_ne_of_head_below hm' (Memory.all_above_of_wf_cons hm hba))

end Sys2Proof.Machine

/-!
PROOFS. The host's operations (spec 60_exceptions.md sections 2, 4 and 5, 70_reset_and_hazards.md): Reset, Load and
SetKeys by the parts they write, the Steps of a Tick by the run they are, and what stays of a fault.
-/

namespace Sys2Proof.Machine

/-! ## Frames of the host's operations -/

section Updates
variable (s : State)

theorem onlyChanges_setKeys (ks : Vector Bool 16) : OnlyChanges [.keys] s (setKeys ks s) := by
  intro p hp
  cases p <;> simp_all [Part.Same, getV]

theorem onlyChanges_setKey (k : Fin 16) (pressed : Bool) : OnlyChanges [.keys] s (setKey k pressed s) := by
  intro p hp
  cases p <;> simp_all [Part.Same, getV]

theorem onlyChanges_tickStart : OnlyChanges [.dirty, .beep] s (tickStart s) := by
  intro p hp
  cases p <;> simp_all [Part.Same, getV, keyDown]

theorem onlyChanges_tickEnd : OnlyChanges [.dt, .st, .beep] s (tickEnd s) := by
  intro p hp
  cases p <;> simp_all [Part.Same, getV, keyDown]

end Updates

/-! ## Reset, Load, SetKeys -/

theorem getV_resetOp (s : State) (x : Reg) : getV (resetOp s) x = 0 := by
  rw [getV, resetOp_v]; exact getV_reset x

/-- Memory after Reset: the font below 0x050, every byte above as before (R241). -/
theorem resetOp_mem_read (s : State) (a : Nat) :
    (resetOp s).mem.read a = if h : a < fontBytes.length then fontBytes[a] else s.mem.read a := by
  rw [resetOp_mem, Memory.read_writeBytes]
  simp only [Nat.zero_le, Nat.sub_zero, true_and]

/-- Every font byte is what its address reads as with nothing listed, so writing the font there lists nothing (R60). -/
theorem resetOp_reset : resetOp State.reset = State.reset := by
  have hmem : (resetOp State.reset).mem = [] := by
    refine equalReadsMeanEqualMemory _ [] invariantHoldsAtReset.resetOp.memWf rfl fun a => ?_
    rw [resetOp_mem_read, Memory.read_nil, unwritten]
    split
    next h => exact (List.getD_eq_getElem _ _ h).symm
    next => rfl
  rw [resetOp_mem] at hmem
  rw [resetOp, hmem]
  rfl

/-- Settles O43: the reset values, and memory by what the write of the font leaves. -/
theorem resetRestoresEverythingButMemory : Obligations.ResetRestoresEverythingButMemory := by
  unfold Obligations.ResetRestoresEverythingButMemory
  have hlen : fontBytes.length = 80 := rfl
  refine fun s => ⟨_, rfl, getV_resetOp s, rfl, rfl, rfl, rfl, rfl, fun k => ?_, fun cx cy => ?_, rfl, rfl,
    fun a ha => ?_, fun a ha => ?_, ?_⟩
  · simp [keyDown, State.reset]
  · rw [resetOp_fb, pixel_blankScreen]
  · rw [resetOp_mem_read, dif_pos (hlen ▸ ha)]
    exact List.getElem?_eq_getElem _
  · rw [resetOp_mem_read, dif_neg (by omega)]
  · rintro rfl
    exact resetOp_reset

theorem load_of_fits {bytes : List Byte} {base : Nat} (s : State) (hne : bytes ≠ [])
    (hfit : base + bytes.length ≤ Config.memSize) :
    load bytes base s = (setMem s (s.mem.writeBytes base bytes), .ok) := by
  rw [load, if_pos (loadFits_iff.mpr ⟨hne, hfit⟩)]

/-- Settles O44: Load is one write of bytes where they fit, and no write where they do not. -/
theorem loadCopiesOrFails : Obligations.LoadCopiesOrFails := by
  unfold Obligations.LoadCopiesOrFails
  refine fun bytes base s => ⟨fun hbad => ?_, fun hne hfit => ?_⟩
  · have hnot : ¬loadFits bytes base = true := by
      rw [loadFits_iff]
      rintro ⟨hne, hle⟩
      rcases hbad with hnil | hlong
      · exact hne hnil
      · exact absurd hle (Nat.not_le.mpr hlong)
    rw [applyOp, load, if_neg hnot]
  · refine ⟨_, load_of_fits s hne hfit, fun k hk => ?_, fun a ha => ?_, onlyChanges_setMem s _⟩
    · rw [setMem_mem, Memory.read_writeBytes, dif_pos ⟨Nat.le_add_right base k, by omega⟩]
      simp [hk]
    · rw [setMem_mem, Memory.read_writeBytes, dif_neg (by omega)]

/-- Settles O45: each operation replaces keys and nothing else. -/
theorem setKeysWritesOnlyKeys : Obligations.SetKeysWritesOnlyKeys := by
  unfold Obligations.SetKeysWritesOnlyKeys
  refine fun ks k b s => ⟨rfl, rfl, fun j => rfl, fun j => ?_, onlyChanges_setKeys s ks, onlyChanges_setKey s k b⟩
  simp only [applyOp, keyDown, setKey_keys, Fin.getElem_fin, Vector.getElem_set, Fin.ext_iff, eq_comm]

/-! ## The Steps of a Tick -/

section Steps
variable {s u : State} {f : Fault}

theorem stepOp_of_next (h : step s = .next u) : stepOp s = (u, .ok) := by
  rw [stepOp, h]

theorem stepOp_of_fault (h : step s = .fault f) : stepOp s = (s, .fault f) := by
  obtain ⟨-, hfault⟩ := pcAfterEveryInstruction
  exact hfault s f h

theorem firstFailure_ok (r : OpResult) : firstFailure r .ok = r := by
  unfold firstFailure
  split <;> simp_all

/-- Steps that go on are the first Steps of the Tick. -/
theorem tickSteps_of_run {k : Nat} (h : Host.Core.run core k s = .next u) (c : Nat) (r : OpResult) :
    tickSteps (k + c) s r = tickSteps c u r := by
  induction k generalizing s with
  | zero => cases h; rw [Nat.zero_add]
  | succ k ih =>
    obtain ⟨t, ht, hrun⟩ := run_succ_eq_next_iff.mp h
    rw [Nat.add_right_comm, tickSteps_succ, stepOp_of_next ht, firstFailure_ok, ih hrun]

theorem tickSteps_of_step_self (h : step s = .next s) (c : Nat) (r : OpResult) : tickSteps c s r = (s, r) := by
  induction c with
  | zero => rfl
  | succ c ih => rw [tickSteps_succ, stepOp_of_next h, firstFailure_ok, ih]

/-- After a failed Step the others repeat it, and the first failure stays the result (60_exceptions.md R217). -/
theorem tickSteps_of_fault_fault (h : step s = .fault f) (c : Nat) (g : Fault) :
    tickSteps c s (.fault g) = (s, .fault g) := by
  induction c with
  | zero => rfl
  | succ c ih => rw [tickSteps_succ, stepOp_of_fault h]; exact ih

theorem tickSteps_succ_of_fault (h : step s = .fault f) (c : Nat) : tickSteps (c + 1) s .ok = (s, .fault f) := by
  rw [tickSteps_succ, stepOp_of_fault h]
  exact tickSteps_of_fault_fault h c f

theorem tickSteps_fst_of_fault (h : step s = .fault f) (c : Nat) : (tickSteps c s .ok).1 = s := by
  cases c with
  | zero => rfl
  | succ c => rw [tickSteps_succ_of_fault h]

end Steps

/-- Settles O41: the fault-free Steps lead to `u` with both flags as the Tick's start left beep; the Steps left, if any,
repeat one fault in `u`; and the Tick's end acts on `u`. -/
theorem tickProcedure : Obligations.TickProcedure := by
  unfold Obligations.TickProcedure
  intro c k s u hrun hlast
  have hrun : Host.Core.run core k (tickStart s) = .next u := hrun
  have hbeep : u.beep = false := by
    have hkept := tickSteps_beep k (tickStart s) .ok
    rwa [← Nat.add_zero k, tickSteps_of_run hrun 0 .ok] at hkept
  have hend : ∀ r, tickSteps c (tickStart s) .ok = (u, r) → tick c s = (tickEnd u, r) := fun r h => by rw [tick, h]
  have hb : (tickEnd u).beep = true ↔ u.st = 1 := by simp [hbeep]
  rcases hlast with rfl | ⟨hlt, f, hf⟩
  · refine ⟨_, _, hend .ok (tickSteps_of_run hrun 0 .ok), countDown_toNat _, countDown_toNat _, hb,
      onlyChanges_tickEnd u, fun _ => rfl, fun _ h => ?_⟩
    exact absurd h (lt_irrefl k)
  · obtain ⟨d, rfl⟩ := Nat.exists_eq_add_of_lt hlt
    refine ⟨_, _, hend (.fault f) ?_, countDown_toNat _, countDown_toNat _, hb, onlyChanges_tickEnd u,
      fun h => by omega, fun g _ hg => ?_⟩
    · rw [Nat.add_assoc, tickSteps_of_run hrun, tickSteps_succ_of_fault hf]
    · rw [hf] at hg; cases hg; rfl

/-! ## The self-jump -/

theorem step_of_selfJump {s : State} (hpc : s.pc.toNat ≤ 0xFFE)
    (hword : (wordAt s.mem s.pc.toNat).toNat = 0x1000 + s.pc.toNat) : step s = .next s := by
  have htarget : (BitVec.ofNat 12 s.pc.toNat).toNat = s.pc.toNat := by
    rw [BitVec.toNat_ofNat]; omega
  have hencode : wordAt s.mem s.pc.toNat = encode (.jp (BitVec.ofNat 12 s.pc.toNat)) := by
    apply BitVec.eq_of_toNat_eq
    rw [hword, encode, packNNN_toNat, htarget]; rfl
  obtain ⟨t, ht, -, -, hself, -⟩ := jumpSetsPc (BitVec.ofNat 12 s.pc.toNat) s
  rw [step_of_decode_ok hpc (hencode ▸ decodeUndoesEncode _ rfl), ht, hself htarget]

/-- Settles O49: a jump to its own address is a fixed point of the Step, and clearing the flags keeps it one. -/
theorem selfJumpIsTheEnd : Obligations.SelfJumpIsTheEnd := by
  unfold Obligations.SelfJumpIsTheEnd
  intro s hpc hword
  have hstart : step (tickStart s) = .next (tickStart s) := step_of_selfJump (s := tickStart s) hpc hword
  refine ⟨step_of_selfJump hpc hword, fun c => ?_⟩
  have htick : tick c s = (tickEnd (tickStart s), .ok) := by
    rw [tick, tickSteps_of_step_self hstart]
  rw [htick]
  exact ⟨rfl, ((onlyChanges_tickStart s).trans (onlyChanges_tickEnd _)).mono (by simp)⟩

/-! ## What stays of a fault -/

/-- The parts that the host's operations other than Reset and Load write, where the Step faults. -/
def partsFaultsIgnore : List Part := [.keys, .dt, .st, .dirty, .beep]

section Repeats
variable {s u : State} {f : Fault}

/-- No fault of an instruction depends on keys, timers or flags. -/
theorem exec_fault_iff_of_onlyChanges (i : Instr) (h : OnlyChanges partsFaultsIgnore s u) :
    exec i u = .fault f ↔ exec i s = .fault f := by
  have hregs : ∀ r, getV u r = getV s r := h .regs (by decide)
  have hi : u.i = s.i := h .index (by decide)
  have hpc : u.pc = s.pc := h .pc (by decide)
  have hstack : u.stack = s.stack := h .stack (by decide)
  have hdepth : u.stackDepth = s.stackDepth := h .stackDepth (by decide)
  rw [(faultsOfEveryInstruction i u).2, (faultsOfEveryInstruction i s).2]
  cases i <;> simp only [hregs, hi, hpc, hstack, hdepth]

/-- No fault of a Step does either. -/
theorem step_fault_of_onlyChanges (h : OnlyChanges partsFaultsIgnore s u) (hf : step s = .fault f) :
    step u = .fault f := by
  have hpc : u.pc = s.pc := h .pc (by decide)
  have hmem : ∀ a, u.mem.read a = s.mem.read a := h .mem (by decide)
  have hword : wordAt u.mem u.pc.toNat = wordAt s.mem s.pc.toNat := by
    rw [wordAt, wordAt, hpc, hmem, hmem]
  have hfetch : fetch u = fetch s := by rw [fetch, fetch, hword, hpc]
  unfold step at hf ⊢
  rw [hfetch, hpc]
  split at hf
  next => exact hf
  next w _ =>
    split at hf
    next => exact hf
    next i _ => exact (exec_fault_iff_of_onlyChanges i h).mpr hf

theorem onlyChanges_applyOp_of_fault {op : HostOp} (hf : step s = .fault f) (hreset : op ≠ .reset)
    (hload : ∀ bytes base, op ≠ .load bytes base) : OnlyChanges partsFaultsIgnore s (applyOp op s).1 := by
  cases op with
  | reset => contradiction
  | load bytes base => exact absurd rfl (hload bytes base)
  | setKeys ks => exact (onlyChanges_setKeys s ks).mono (by decide)
  | setKey k pressed => exact (onlyChanges_setKey s k pressed).mono (by decide)
  | step => rw [applyOp, stepOp_of_fault hf]; exact .refl _ s
  | tick c =>
    have hstart : OnlyChanges partsFaultsIgnore s (tickStart s) := (onlyChanges_tickStart s).mono (by decide)
    have htick : (tick c s).1 = tickEnd (tickStart s) := by
      rw [tick, tickSteps_fst_of_fault (step_fault_of_onlyChanges hstart hf)]
    rw [applyOp, htick]
    exact (hstart.trans (onlyChanges_tickEnd _)).mono (by decide)

theorem onlyChanges_runOps_of_fault (hf : step s = .fault f) (ops : List HostOp)
    (hops : ∀ op ∈ ops, op ≠ .reset ∧ ∀ bytes base, op ≠ .load bytes base) :
    OnlyChanges partsFaultsIgnore s (runOps ops s) := by
  induction ops generalizing s with
  | nil => exact .refl _ s
  | cons op ops ih =>
    obtain ⟨⟨hreset, hload⟩, hrest⟩ := List.forall_mem_cons.mp hops
    have hop := onlyChanges_applyOp_of_fault hf hreset hload
    exact (hop.trans (ih (step_fault_of_onlyChanges hop hf) hrest)).mono (by simp)

/-- An unknown word has been fetched: its two bytes are in memory. -/
theorem pc_le_of_unknownOpcode {w p : Word} (hf : step s = .fault (.unknownOpcode w p)) : s.pc.toNat ≤ 0xFFE := by
  rcases fetch_cases s with ⟨-, h⟩ | ⟨-, h⟩ | ⟨hpc, -⟩
  · rw [step_of_fetch_error h] at hf; cases hf
  · rw [step_of_fetch_error h] at hf; cases hf
  · exact hpc

end Repeats

/-- Settles O10: the allowed operations write only parts that no fault depends on, so the fault repeats; and an unknown
word lies in memory, where a Load can write the word of another instruction over it. -/
theorem faultRepeatsUntilLoadOrReset : Obligations.FaultRepeatsUntilLoadOrReset := by
  unfold Obligations.FaultRepeatsUntilLoadOrReset
  refine fun s f hf => ⟨fun ops hops => ?_, ?_⟩
  · have hframe := onlyChanges_runOps_of_fault hf ops hops
    exact ⟨step_fault_of_onlyChanges hframe hf, hframe⟩
  · rintro w p rfl i hwf
    have hpc := pc_le_of_unknownOpcode hf
    have hfit : s.pc.toNat + (bytesOfWord (encode i)).length ≤ Config.memSize := by
      show s.pc.toNat + 2 ≤ 4096
      omega
    refine ⟨_, load_of_fits s (List.cons_ne_nil _ _) hfit, onlyChanges_setMem s _, ?_⟩
    apply step_of_decode_ok (by exact hpc)
    rw [setMem_mem, setMem_pc, wordAt_writeBytes]
    exact decodeUndoesEncode i hwf

/-! ## What no instruction reads -/

/-- `s` with other values in ST, dirty, beep and the framebuffer. -/
def withOutputs (s : State) (st : Byte) (d b : Bool) (fb : Screen) : State :=
  { s with st := st, dirty := d, beep := b, fb := fb }

/-- What an instruction run with other output values answers: those it writes as in `t`, the others as they were put. -/
def outputsAfter (i : Instr) (t : State) (st : Byte) (d b : Bool) (fb : Screen) : State :=
  withOutputs t (if .st ∈ writtenParts i then t.st else st) (if .dirty ∈ writtenParts i then t.dirty else d) b
    (if .screen ∈ writtenParts i then t.fb else fb)

section Outputs
variable {i : Instr} {s t : State} {st : Byte} {d b : Bool} {fb : Screen}

theorem exec_withOutputs (hfb : fb = s.fb ∨ ∀ x y n, i ≠ .drw x y n) (h : exec i s = .next t) :
    exec i (withOutputs s st d b fb) = .next (outputsAfter i t st d b fb) := by
  cases i
  case sys => cases h
  case ret => obtain ⟨a, htop, rfl⟩ := exec_ret_next_iff.mp h; exact exec_ret_next_iff.mpr ⟨a, htop, rfl⟩
  case call => obtain ⟨hroom, rfl⟩ := exec_call_next_iff.mp h; exact exec_call_next_iff.mpr ⟨hroom, rfl⟩
  case skp => obtain ⟨p, hkey, rfl⟩ := exec_skp_next_iff.mp h; exact exec_skp_next_iff.mpr ⟨p, hkey, rfl⟩
  case sknp => obtain ⟨p, hkey, rfl⟩ := exec_sknp_next_iff.mp h; exact exec_sknp_next_iff.mpr ⟨p, hkey, rfl⟩
  case ldVxK =>
    rcases exec_ldVxK_next_iff.mp h with ⟨hnone, rfl⟩ | ⟨k, hsome, rfl⟩
    · exact exec_ldVxK_next_iff.mpr (.inl ⟨hnone, rfl⟩)
    · exact exec_ldVxK_next_iff.mpr (.inr ⟨k, hsome, rfl⟩)
  case drw x y n =>
    obtain ⟨hin, rfl⟩ := exec_drw_next_iff.mp h
    obtain rfl : fb = s.fb := hfb.resolve_right fun hno => hno x y n rfl
    exact exec_drw_next_iff.mpr ⟨hin, rfl⟩
  case ldB => obtain ⟨hin, rfl⟩ := exec_ldB_next_iff.mp h; exact exec_ldB_next_iff.mpr ⟨hin, rfl⟩
  case storeRegs => obtain ⟨hin, rfl⟩ := exec_storeRegs_next_iff.mp h; exact exec_storeRegs_next_iff.mpr ⟨hin, rfl⟩
  case loadRegs => obtain ⟨hin, rfl⟩ := exec_loadRegs_next_iff.mp h; exact exec_loadRegs_next_iff.mpr ⟨hin, rfl⟩
  all_goals obtain rfl := Host.Outcome.next.inj h; rfl

/-- No fault depends on the outputs. -/
theorem exec_withOutputs_fault_iff (f : Fault) :
    exec i s = .fault f ↔ exec i (withOutputs s st d b fb) = .fault f :=
  ((faultsOfEveryInstruction i s).2 f).trans ((faultsOfEveryInstruction i (withOutputs s st d b fb)).2 f).symm

theorem onlyChanges_withOutputs : OnlyChanges [.st, .dirty, .beep, .screen] s (withOutputs s st d b fb) := by
  intro p hp
  cases p <;> simp_all [Part.Same, getV, keyDown, withOutputs]

theorem beep_not_mem_writtenParts (i : Instr) : .beep ∉ writtenParts i := by
  cases i <;> simp [writtenParts]

theorem same_outputsAfter_of_written {p : Part} (hp : p ∈ writtenParts i) :
    p.Same t (outputsAfter i t st d b fb) := by
  cases p
  case beep => exact absurd hp (beep_not_mem_writtenParts i)
  case st => exact if_pos hp
  case dirty => exact if_pos hp
  case screen => intro cx cy; rw [outputsAfter, withOutputs, if_pos hp]
  case regs | keys | mem => exact fun _ => rfl
  all_goals rfl

/-- Where the framebuffer was kept, the instruction leaves the same one. -/
theorem screen_same_outputsAfter (h : exec i s = .next t) :
    Part.Same .screen t (outputsAfter i t st d b s.fb) := by
  by_cases hp : .screen ∈ writtenParts i
  · exact same_outputsAfter_of_written hp
  · intro cx cy
    have hkept : pixel t.fb cx cy = pixel s.fb cx cy := exec_next_onlyChanges h .screen hp cx cy
    rw [outputsAfter, withOutputs, if_neg hp, hkept]

end Outputs

/-- Settles O50: run with other outputs, an instruction answers the state `outputsAfter`, whose parts are read off its
definition, and the frame is that of every instruction. -/
theorem nothingReadsSoundFlagsOrScreen : Obligations.NothingReadsSoundFlagsOrScreen := by
  unfold Obligations.NothingReadsSoundFlagsOrScreen
  refine fun i s st d b fb hfb => ⟨fun f => exec_withOutputs_fault_iff f, fun t h => ?_⟩
  have hnext := exec_withOutputs (st := st) (d := d) (b := b) hfb h
  refine ⟨_, hnext, onlyChanges_withOutputs, fun p hp => same_outputsAfter_of_written hp,
    exec_next_onlyChanges hnext, ?_⟩
  rintro rfl
  exact screen_same_outputsAfter h

end Sys2Proof.Machine

/-!
PROOFS. The display (spec 43_display.md R161, R162, 10_state.md R26): the two nested loops of `DRW` flip the cells of
one list, in which no cell stands twice, and the host's flat view is column-major.
-/

namespace Sys2Proof.Machine

/-! ## The loops of `DRW` as one pass over the sprite's cells -/

/-- The cells that the 1 bits of the sprite land on, in the order of drawing (R162). -/
def spriteCells (s : State) (x0 y0 n : Nat) : List (Fin 64 × Fin 32) :=
  ((List.range n ×ˢ List.range 8).filter fun p => (s.mem.read (effAddr s p.1)).getLsbD (7 - p.2)).map
    fun p => (Fin.ofNat 64 (x0 + p.2), Fin.ofNat 32 (y0 + p.1))

/-- One cell flipped, its collision noted. -/
def flipCell (d : Drawing) (c : Fin 64 × Fin 32) : Drawing :=
  (flipPixel d.1 c.1 c.2, d.2 || pixel d.1 c.1 c.2)

section Loops
variable {s : State} {x0 y0 n : Nat} {cells : List (Fin 64 × Fin 32)} {cx : Fin 64} {cy : Fin 32}

theorem drawSprite_eq_foldl (s : State) (x0 y0 n : Nat) :
    drawSprite s x0 y0 n = (spriteCells s x0 y0 n).foldl flipCell (s.fb, false) := by
  have hpairs : List.range n ×ˢ List.range 8 = (List.range n).flatMap fun r => (List.range 8).map (Prod.mk r) := rfl
  rw [spriteCells, List.foldl_map, List.foldl_filter, hpairs, List.foldl_flatMap]
  simp only [List.foldl_map]
  rfl

theorem mem_spriteCells_iff :
    (cx, cy) ∈ spriteCells s x0 y0 n ↔ SpriteCovers s x0 y0 n cx.val cy.val := by
  simp only [spriteCells, SpriteCovers, List.mem_map, List.mem_filter, List.mem_product, List.mem_range, Prod.exists,
    Prod.mk.injEq, Fin.ext_iff, Fin.val_ofNat, effAddr]
  exact exists_congr fun r => exists_congr fun j => by tauto

/-- At most 32 rows of 8 columns wrap onto no cell twice. -/
theorem spriteCells_nodup (hn : n ≤ 32) : (spriteCells s x0 y0 n).Nodup := by
  refine List.Nodup.map_on ?_ ((List.nodup_range.product List.nodup_range).filter _)
  rintro ⟨r, j⟩ hp ⟨r', j'⟩ hq heq
  simp only [List.mem_filter, List.mem_product, List.mem_range] at hp hq
  simp only [Prod.mk.injEq, Fin.ext_iff, Fin.val_ofNat] at heq ⊢
  omega

theorem pixel_foldl_flipCell (hnodup : cells.Nodup) (d : Drawing) :
    pixel (cells.foldl flipCell d).1 cx cy = true ↔ (pixel d.1 cx cy = true ↔ (cx, cy) ∉ cells) := by
  induction cells generalizing d with
  | nil => simp
  | cons c cells ih =>
    obtain ⟨hc, hrest⟩ := List.nodup_cons.mp hnodup
    rw [List.foldl_cons, ih hrest, flipCell, pixel_flipPixel]
    by_cases hsame : (cx, cy) = c
    · subst hsame
      simp [hc]
    · have hne : ¬(cx = c.1 ∧ cy = c.2) := fun h => hsame (Prod.ext h.1 h.2)
      simp [hsame, hne]

theorem collision_foldl_flipCell (hnodup : cells.Nodup) (d : Drawing) :
    (cells.foldl flipCell d).2 = true ↔ d.2 = true ∨ ∃ c ∈ cells, pixel d.1 c.1 c.2 = true := by
  induction cells generalizing d with
  | nil => simp
  | cons c cells ih =>
    obtain ⟨hc, hrest⟩ := List.nodup_cons.mp hnodup
    -- flipping `c` leaves the cells still to come
    have hkeep : ∀ c' ∈ cells, pixel (flipPixel d.1 c.1 c.2) c'.1 c'.2 = pixel d.1 c'.1 c'.2 := by
      intro c' hmem
      rw [pixel_flipPixel, if_neg]
      rintro ⟨hx, hy⟩
      exact hc (Prod.ext hx hy ▸ hmem)
    have hlater : (∃ c' ∈ cells, pixel (flipPixel d.1 c.1 c.2) c'.1 c'.2 = true) ↔
        ∃ c' ∈ cells, pixel d.1 c'.1 c'.2 = true :=
      exists_congr fun c' => and_congr_right fun hmem => by rw [hkeep c' hmem]
    rw [List.foldl_cons, ih hrest, flipCell, hlater]
    simp [or_assoc]

/-- Every cell after the sprite is drawn: flipped where a 1 bit lands. -/
theorem pixel_drawSprite (hn : n ≤ 32) :
    pixel (drawSprite s x0 y0 n).1 cx cy = true ↔
      (pixel s.fb cx cy = true ↔ ¬SpriteCovers s x0 y0 n cx.val cy.val) := by
  rw [drawSprite_eq_foldl, pixel_foldl_flipCell (spriteCells_nodup hn), mem_spriteCells_iff]

/-- The collision: a 1 bit has landed on a lit cell. -/
theorem collision_drawSprite (hn : n ≤ 32) :
    (drawSprite s x0 y0 n).2 = true ↔
      ∃ (cx : Fin 64) (cy : Fin 32), pixel s.fb cx cy = true ∧ SpriteCovers s x0 y0 n cx.val cy.val := by
  rw [drawSprite_eq_foldl, collision_foldl_flipCell (spriteCells_nodup hn)]
  simp [mem_spriteCells_iff, and_comm]

end Loops

/-! ## `DRW` -/

theorem flagByte_eq_one_iff {c : Bool} : flagByte c = 1 ↔ c = true := by
  cases c <;> decide

section Draw
variable {s t : State} {x y : Reg} {n : BitVec 4}

theorem exec_drw_next_pixel (h : exec (.drw x y n) s = .next t) (cx : Fin 64) (cy : Fin 32) :
    pixel t.fb cx cy = true ↔ (pixel s.fb cx cy = true ↔
      ¬SpriteCovers s (getV s x).toNat (getV s y).toNat n.toNat cx.val cy.val) := by
  obtain ⟨-, rfl⟩ := exec_drw_next_iff.mp h
  exact pixel_drawSprite (by omega)

theorem exec_drw_next_vf (h : exec (.drw x y n) s = .next t) :
    getV t 15 = flagByte (drawSprite s (getV s x).toNat (getV s y).toNat n.toNat).2 := by
  obtain ⟨-, rfl⟩ := exec_drw_next_iff.mp h
  rw [getV_advance, getV_setFlag_vf]

theorem exec_drw_next_vf_eq_one_iff (h : exec (.drw x y n) s = .next t) :
    getV t 15 = 1 ↔ ∃ (cx : Fin 64) (cy : Fin 32), pixel s.fb cx cy = true ∧
      SpriteCovers s (getV s x).toNat (getV s y).toNat n.toNat cx.val cy.val := by
  rw [exec_drw_next_vf h, flagByte_eq_one_iff, collision_drawSprite (by omega)]

/-- A lit cell goes out exactly when a 1 bit lands on it. -/
theorem exec_drw_next_out_iff (h : exec (.drw x y n) s = .next t) {cx : Fin 64} {cy : Fin 32} :
    pixel s.fb cx cy = true ∧ pixel t.fb cx cy = false ↔ pixel s.fb cx cy = true ∧
      SpriteCovers s (getV s x).toNat (getV s y).toNat n.toNat cx.val cy.val := by
  rw [← Bool.not_eq_true, exec_drw_next_pixel h]
  tauto

end Draw

/-- Settles O35: the loops are one pass over a list without repetition, so each cell is flipped once or not at all and
collides with what was there before the instruction. -/
theorem drawXorsTheSprite : Obligations.DrawXorsTheSprite := by
  unfold Obligations.DrawXorsTheSprite
  intro x y n s hin
  have hsprite : spriteInMemory s n.toNat = true := by
    rw [spriteInMemory_iff]
    exact hin.imp_left fun h0 => by rw [h0]; rfl
  have hnext := exec_drw_next_iff (x := x) (y := y) (n := n).mpr ⟨hsprite, rfl⟩
  have hflag := exec_drw_next_vf_eq_one_iff hnext
  simp only [← exec_drw_next_out_iff hnext] at hflag
  refine ⟨_, hnext, exec_drw_next_pixel hnext, hflag.mpr, fun hnone => ?_, rfl, rfl, exec_next_regsSameBut hnext,
    exec_next_onlyChanges hnext⟩
  rw [exec_drw_next_vf hnext] at hflag ⊢
  rw [flagByte_eq_one_iff] at hflag
  rw [Bool.eq_false_iff.mpr (hflag.not.mpr hnone)]
  rfl

/-- Where a sprite lands depends on memory and I only. -/
theorem spriteCovers_congr {s t : State} (hmem : ∀ a, t.mem.read a = s.mem.read a) (hi : t.i = s.i)
    {x0 y0 n cx cy : Nat} : SpriteCovers t x0 y0 n cx cy ↔ SpriteCovers s x0 y0 n cx cy := by
  simp only [SpriteCovers, hmem, hi]

/-- Settles O36: the first draw leaves memory, I and the two coordinates, so the second flips the same cells. -/
theorem drawTwiceRestoresTheScreen : Obligations.DrawTwiceRestoresTheScreen := by
  unfold Obligations.DrawTwiceRestoresTheScreen
  intro x y n s t u hx hy hst htu
  have hparts := exec_next_onlyChanges hst
  have hregs : RegsSameBut [15] s t := exec_next_regsSameBut hst
  have hcovers : ∀ cx cy, SpriteCovers t (getV t x).toNat (getV t y).toNat n.toNat cx cy ↔
      SpriteCovers s (getV s x).toNat (getV s y).toNat n.toNat cx cy := by
    intro cx cy
    rw [hregs x (by simpa using hx), hregs y (by simpa using hy)]
    exact spriteCovers_congr (hparts .mem (by simp [writtenParts])) (hparts .index (by simp [writtenParts]))
  refine ⟨fun cx cy => ?_, ?_⟩
  · rw [Bool.eq_iff_iff, exec_drw_next_pixel htu, exec_drw_next_pixel hst, hcovers]
    tauto
  · simp only [exec_drw_next_vf_eq_one_iff htu, hcovers]

/-! ## The flat view -/

/-- Columns of equal length laid end to end: cell `j` of column `i` stands at `i * n + j`. -/
theorem getElem?_flatMap_toList {α : Type} {n : Nat} (cols : List (Vector α n)) (i : Nat) {j : Nat} (hj : j < n) :
    (cols.flatMap Vector.toList)[i * n + j]? = cols[i]?.map (·[j]) := by
  induction cols generalizing i with
  | nil => simp
  | cons c cols ih =>
    rw [List.flatMap_cons]
    cases i with
    | zero =>
      rw [Nat.zero_mul, Nat.zero_add, List.getElem?_append_left (by rwa [Vector.length_toList])]
      simp [hj]
    | succ i =>
      have hpast : (i + 1) * n + j - c.toList.length = i * n + j := by
        rw [Vector.length_toList, Nat.succ_mul]; omega
      rw [List.getElem?_append_right (by rw [Vector.length_toList, Nat.succ_mul]; omega), hpast, ih,
        List.getElem?_cons_succ]

/-- Settles O37: 64 columns of 32 cells laid end to end. -/
theorem flatViewIsColumnMajor : Obligations.FlatViewIsColumnMajor := by
  unfold Obligations.FlatViewIsColumnMajor
  refine fun fb => ⟨?_, fun cx cy => ?_⟩
  · simp [flatCells, List.length_flatMap]
  · rw [flatCells, getElem?_flatMap_toList _ _ cy.isLt]
    simp [pixel]

end Sys2Proof.Machine
